-- ==== Sys2Proof/Word.lean ====
section
/-! DEFINITION. The two word types of the block: a byte of a buffer or a wire format, and a 16-bit register
(`00_scope.md` R5, R6). All arithmetic of the spec is unsigned. -/

namespace Sys2Proof

/-- A `W8`: one byte of `IN`, of `OUT` or of a wire format (R6). -/
abbrev Byte := BitVec 8

/-- A `W16`: one register of the block (R6). -/
abbrev W16 := BitVec 16

end Sys2Proof
end

