-- ==== Sys2Proof/Config.lean ====
section
/-! DEFINITION. What is fixed for the life of a machine (`00_scope.md` R5), and the one free value of the model. -/

namespace Sys2Proof

/-- The two address spaces of the block (`20_memory.md` R40). -/
inductive Buffer where
  /-- `IN`, the operand buffer (`10_state.md` R18). -/
  | inBuf
  /-- `OUT`, the result buffer (`10_state.md` R19). -/
  | outBuf
  deriving DecidableEq, Repr

/-- `WFR_RECLEN`: whether a function-21 sub-request carries a record length (`00_scope.md` R5, `43_pdu_encode.md` R178). -/
inductive RecLen where
  | absent
  | present
  deriving DecidableEq, Repr

/-- The parameters the spec leaves OPEN and takes as model arguments (`00_scope.md` R5). Held in State, see
notes/assumptions/3.md: a statement about every state is then a statement about every admitted parameter. -/
structure Params where
  /-- `IN_CAP`, the capacity of `IN` in bytes. -/
  inCap : Nat
  /-- `OUT_CAP`, the capacity of `OUT` in bytes. -/
  outCap : Nat
  /-- `WFR_RECLEN`. -/
  wfrReclen : RecLen
  deriving DecidableEq, Repr

/-- The default parameters of `00_scope.md` R5. -/
def Config.defaultParams : Params := { inCap := 1024, outCap := 1024, wfrReclen := .absent }

/-- The largest slave address the encoders accept (`00_scope.md` R5, `41_frame_encode.md` R125). -/
def Config.maxSlaveAddress : Nat := 247

/-- FREE VALUE: what a buffer byte holds that the spec leaves unspecified (`10_state.md` R19, R25;
`93_implementation_defined.md` U2, U3: "any value"). Arguments: the buffer, the draw (a counter of State), the index.
It has no body, so nothing can be proved about a value of it (notes/assumptions/5.md, 6.md). -/
opaque Config.unspecifiedByte : Buffer → Nat → Nat → Byte

end Sys2Proof
end

