-- ==== Sys2Proof/Machine/HostActions.lean ====
section
/-! DEFINITION. What the host can do to the block between commands, as plain data (`10_state.md` R24,
`70_reset_and_hazards.md` R280, R292; notes/assumptions/1.md). -/

namespace Sys2Proof

/-- The registers of the block by name (`10_state.md` R24). -/
inductive Reg where
  | a0 | a1 | a2 | a3
  | r0 | r1 | r2
  | cmd | status | inLen | outLen
  deriving DecidableEq, Repr

/-- One action of the host (`70_reset_and_hazards.md` R292: "register and buffer writes, command issues, reads"). -/
inductive HostAction where
  /-- The host writes a register; a write to `CMD` issues the command it spells (`10_state.md` R14); a write to a
  read-only register is ignored (R24). -/
  | writeReg (r : Reg) (v : W16)
  /-- The host reads a register (R24). -/
  | readReg (r : Reg)
  /-- The host writes one byte of a buffer; a write to `OUT` is ignored (R24). -/
  | writeByte (b : Buffer) (i : Nat) (v : Byte)
  /-- The host reads one byte of a buffer (R24). -/
  | readByte (b : Buffer) (i : Nat)
  /-- The host looks at `STATUS.ERR` and, where it is not 0, leaves out its next `n` actions
  (`60_exceptions.md` R263, `30_encoding.md` R76; notes/assumptions/11.md). -/
  | skipIfErr (n : Nat)
  /-- Reset, an external event (`70_reset_and_hazards.md` R280; notes/assumptions/8.md). -/
  | reset
  deriving DecidableEq, Repr

end Sys2Proof
end

