-- ==== Sys2Proof/Syntax.lean ====
section
/-! DEFINITION. The commands of the block, one constructor per row of spec/opcode_table.json. A legal command word
has no free bit (`30_encoding.md` R60), so no constructor has a field: every operand is in `A[0..2]`, `IN_LEN` and
`IN` (R71). -/

namespace Sys2Proof

/-- The 26 commands (`30_encoding.md` R61, R63). -/
inductive Instr where
  /-- `CRC16` (`40_checksum.md` R103). -/
  | crc16
  /-- `LRC8` (`40_checksum.md` R106). -/
  | lrc8
  /-- `ENCF.RTU` (`41_frame_encode.md` R121). -/
  | encfRtu
  /-- `ENCF.ASCII` (`41_frame_encode.md` R124). -/
  | encfAscii
  /-- `DECF.RTU` (`42_frame_decode.md` R141). -/
  | decfRtu
  /-- `DECF.ASCII` (`42_frame_decode.md` R144). -/
  | decfAscii
  /-- `PDUENC.1`, Read Coils (`43_pdu_encode.md` R161). -/
  | pduenc1
  /-- `PDUENC.2`, Read Discretes (R162). -/
  | pduenc2
  /-- `PDUENC.3`, Read Holding Registers (R163). -/
  | pduenc3
  /-- `PDUENC.4`, Read Input Registers (R164). -/
  | pduenc4
  /-- `PDUENC.5`, Write Single Coil (R165). -/
  | pduenc5
  /-- `PDUENC.6`, Write Single Register (R166). -/
  | pduenc6
  /-- `PDUENC.7`, Report Exceptions (R170). -/
  | pduenc7
  /-- `PDUENC.8`, Diagnostics (R167). -/
  | pduenc8
  /-- `PDUENC.11`, Get Comm Event Counter (R168). -/
  | pduenc11
  /-- `PDUENC.12`, Get Comm Event Log (R169). -/
  | pduenc12
  /-- `PDUENC.15`, Write Multiple Coils (R174). -/
  | pduenc15
  /-- `PDUENC.16`, Write Multiple Registers (R175). -/
  | pduenc16
  /-- `PDUENC.17`, Report Slave ID (R171). -/
  | pduenc17
  /-- `PDUENC.20`, Read File Record (R177). -/
  | pduenc20
  /-- `PDUENC.21`, Write File Record (R178). -/
  | pduenc21
  /-- `PDUENC.22`, Mask Write Register (R179). -/
  | pduenc22
  /-- `PDUENC.23`, Read/Write Multiple Registers (R172). -/
  | pduenc23
  /-- `PDUENC.24`, Read FIFO Queue (R176). -/
  | pduenc24
  /-- `PDUENC.43`, Encapsulated Interface Transport / Read Device ID (R180). -/
  | pduenc43
  /-- `XFER` (`44_transfer.md` R200). -/
  | xfer
  deriving DecidableEq, Repr

end Sys2Proof
end

