-- ==== Sys2Proof/WellFormed.lean ====
section
/-! DEFINITION. The checks on terms: parameters, host actions, commands. The checks on a command WORD (`ZERO`, `OP`,
`SEL`) are the decoder's, since an illegal word has an effect of its own (`30_encoding.md` R64). -/

namespace Sys2Proof

/-- Parameters the spec admits: 7 <= cap <= 65535 for both buffers (`00_scope.md` R5). -/
abbrev Params.wf (p : Params) : Prop :=
  (7 ≤ p.inCap ∧ p.inCap ≤ 65535) ∧ 7 ≤ p.outCap ∧ p.outCap ≤ 65535

/-- The capacity of a buffer (`20_memory.md` R40). -/
def Params.cap (p : Params) : Buffer → Nat
  | .inBuf => p.inCap
  | .outBuf => p.outCap

/-- A command has no operand field (`30_encoding.md` R60: "every bit of a legal command word is fixed"), so every
command is well-formed. -/
abbrev Instr.wf (_ : Instr) : Prop := True

/-- A host action names only elements the block has: a buffer index lies inside the buffer
(`93_implementation_defined.md` U15: otherwise it is no host action of the model). -/
abbrev HostAction.wf (p : Params) : HostAction → Prop
  | .writeReg _ _ => True
  | .readReg _ => True
  | .writeByte b i _ => i < p.cap b
  | .readByte b i => i < p.cap b
  | .skipIfErr _ => True
  | .reset => True

end Sys2Proof
end

