-- ==== Sys2Proof/Decode.lean ====
section
/-! DEFINITION. The decoder of a command word, total on all 65536 words, and the encoder
(`30_encoding.md` R60 to R64). -/

namespace Sys2Proof

/-- The three fields of a command word (`30_encoding.md` R60). -/
structure CmdFields where
  /-- `OP`, bits 15:12. -/
  op : BitVec 4
  /-- `ZERO`, bits 11:8. -/
  zero : BitVec 4
  /-- `SEL`, bits 7:0. -/
  sel : BitVec 8
  deriving DecidableEq, Repr

/-- What a command word spells (`30_encoding.md` R64). -/
inductive Decoded where
  /-- One of the 26 commands. -/
  | instr (i : Instr)
  /-- No command: issuing it ends in `IllegalCmd` (R64, R252). -/
  | illegal
  /-- A `PDUENC` whose function the block does not implement: issuing it ends in `UnsupportedFc` (R63, R253). -/
  | unsupportedFc
  deriving DecidableEq, Repr

/-- `OP`, `ZERO`, `SEL` of a word (`30_encoding.md` R60). -/
def splitWord (w : W16) : CmdFields :=
  { op := w.extractLsb' 12 4, zero := w.extractLsb' 8 4, sel := w.extractLsb' 0 8 }

/-- The word of three fields (`30_encoding.md` R60). -/
def joinFields (f : CmdFields) : W16 := f.op ++ f.zero ++ f.sel

/-- The `PDUENC` command of a function code, for the nineteen codes of `30_encoding.md` R63. -/
def pduencOf : Nat → Option Instr
  | 1 => some .pduenc1
  | 2 => some .pduenc2
  | 3 => some .pduenc3
  | 4 => some .pduenc4
  | 5 => some .pduenc5
  | 6 => some .pduenc6
  | 7 => some .pduenc7
  | 8 => some .pduenc8
  | 11 => some .pduenc11
  | 12 => some .pduenc12
  | 15 => some .pduenc15
  | 16 => some .pduenc16
  | 17 => some .pduenc17
  | 20 => some .pduenc20
  | 21 => some .pduenc21
  | 22 => some .pduenc22
  | 23 => some .pduenc23
  | 24 => some .pduenc24
  | 43 => some .pduenc43
  | _ => none

/-- The command of an `OP` and a `SEL` (`30_encoding.md` R61 to R64), `ZERO` having been checked. -/
def decodeOp : Nat → Nat → Decoded
  | 1, 0 => .instr .crc16
  | 2, 0 => .instr .lrc8
  | 3, 0 => .instr .encfRtu
  | 3, 1 => .instr .encfAscii
  | 4, 0 => .instr .decfRtu
  | 4, 1 => .instr .decfAscii
  | 5, sel => match pduencOf sel with
    | some i => .instr i
    | none => .unsupportedFc
  | 6, 0 => .instr .xfer
  | _, _ => .illegal

/-- The command three fields spell; `ZERO != 0` comes before everything else (R64, R259). -/
def decodeFields (f : CmdFields) : Decoded :=
  if f.zero = 0#4 then decodeOp f.op.toNat f.sel.toNat else .illegal

/-- The command a word written to `CMD` spells (`30_encoding.md` R60, R64). -/
def decode (w : W16) : Decoded := decodeFields (splitWord w)

/-- `OP` of a command (`30_encoding.md` R61). -/
def Instr.opField : Instr → BitVec 4
  | .crc16 => 0x1#4
  | .lrc8 => 0x2#4
  | .encfRtu | .encfAscii => 0x3#4
  | .decfRtu | .decfAscii => 0x4#4
  | .pduenc1 | .pduenc2 | .pduenc3 | .pduenc4 | .pduenc5 | .pduenc6 | .pduenc7 | .pduenc8 | .pduenc11 | .pduenc12
  | .pduenc15 | .pduenc16 | .pduenc17 | .pduenc20 | .pduenc21 | .pduenc22 | .pduenc23 | .pduenc24 | .pduenc43 => 0x5#4
  | .xfer => 0x6#4

/-- `SEL` of a command: 0, the wire mode (`30_encoding.md` R62), or the function code (R63). -/
def Instr.selField : Instr → BitVec 8
  | .crc16 | .lrc8 | .encfRtu | .decfRtu | .xfer => 0x00#8
  | .encfAscii | .decfAscii => 0x01#8
  | .pduenc1 => 0x01#8
  | .pduenc2 => 0x02#8
  | .pduenc3 => 0x03#8
  | .pduenc4 => 0x04#8
  | .pduenc5 => 0x05#8
  | .pduenc6 => 0x06#8
  | .pduenc7 => 0x07#8
  | .pduenc8 => 0x08#8
  | .pduenc11 => 0x0B#8
  | .pduenc12 => 0x0C#8
  | .pduenc15 => 0x0F#8
  | .pduenc16 => 0x10#8
  | .pduenc17 => 0x11#8
  | .pduenc20 => 0x14#8
  | .pduenc21 => 0x15#8
  | .pduenc22 => 0x16#8
  | .pduenc23 => 0x17#8
  | .pduenc24 => 0x18#8
  | .pduenc43 => 0x2B#8

/-- The command word of a command (`30_encoding.md` R60, R61, R63). -/
def encode (i : Instr) : W16 := joinFields { op := i.opField, zero := 0#4, sel := i.selField }

/-- The command a row of spec/opcode_table.json stands for: `w` holds `nbits` bits and zeros above them. A command
word is the 16-bit value written to `CMD`, bit 0 its least significant bit; it is stored nowhere, so no byte order
enters (`30_encoding.md` R60; notes/assumptions/12.md). -/
def decodeTableWord (nbits w : Nat) : Option Instr :=
  if nbits ≤ 16 then
    match decode (BitVec.ofNat 16 (w % 2 ^ nbits)) with
    | .instr i => some i
    | .illegal => none
    | .unsupportedFc => none
  else none

/-- The mnemonic of a command (`30_encoding.md` R61, R63). -/
def Instr.mnemonic : Instr → String
  | .crc16 => "CRC16"
  | .lrc8 => "LRC8"
  | .encfRtu => "ENCF.RTU"
  | .encfAscii => "ENCF.ASCII"
  | .decfRtu => "DECF.RTU"
  | .decfAscii => "DECF.ASCII"
  | .pduenc1 => "PDUENC.1"
  | .pduenc2 => "PDUENC.2"
  | .pduenc3 => "PDUENC.3"
  | .pduenc4 => "PDUENC.4"
  | .pduenc5 => "PDUENC.5"
  | .pduenc6 => "PDUENC.6"
  | .pduenc7 => "PDUENC.7"
  | .pduenc8 => "PDUENC.8"
  | .pduenc11 => "PDUENC.11"
  | .pduenc12 => "PDUENC.12"
  | .pduenc15 => "PDUENC.15"
  | .pduenc16 => "PDUENC.16"
  | .pduenc17 => "PDUENC.17"
  | .pduenc20 => "PDUENC.20"
  | .pduenc21 => "PDUENC.21"
  | .pduenc22 => "PDUENC.22"
  | .pduenc23 => "PDUENC.23"
  | .pduenc24 => "PDUENC.24"
  | .pduenc43 => "PDUENC.43"
  | .xfer => "XFER"

/-- The second mnemonic `30_encoding.md` R63 gives the `PDUENC` commands. -/
def Instr.otherMnemonic : Instr → Option String
  | .pduenc1 => some "PDUENC.RD_COILS"
  | .pduenc2 => some "PDUENC.RD_DISCRETES"
  | .pduenc3 => some "PDUENC.RD_HOLDING"
  | .pduenc4 => some "PDUENC.RD_INPUT"
  | .pduenc5 => some "PDUENC.WR_COIL"
  | .pduenc6 => some "PDUENC.WR_REG"
  | .pduenc7 => some "PDUENC.RPT_EXC"
  | .pduenc8 => some "PDUENC.DIAG"
  | .pduenc11 => some "PDUENC.EVT_CTR"
  | .pduenc12 => some "PDUENC.EVT_LOG"
  | .pduenc15 => some "PDUENC.WR_COILS"
  | .pduenc16 => some "PDUENC.WR_REGS"
  | .pduenc17 => some "PDUENC.SLAVE_ID"
  | .pduenc20 => some "PDUENC.RD_FILE"
  | .pduenc21 => some "PDUENC.WR_FILE"
  | .pduenc22 => some "PDUENC.MASK_WR"
  | .pduenc23 => some "PDUENC.RW_REGS"
  | .pduenc24 => some "PDUENC.RD_FIFO"
  | .pduenc43 => some "PDUENC.RD_DEVID"
  | .crc16 | .lrc8 | .encfRtu | .encfAscii | .decfRtu | .decfAscii | .xfer => none

end Sys2Proof
end

