-- ==== Sys2Proof/Machine/Bits.lean ====
section
/-! DEFINITION. Bit fields and byte order (`00_scope.md` R6, R7; `20_memory.md` R43 to R46). -/

namespace Sys2Proof.Machine

/-- `hi8(w) = w[15:8]` (`00_scope.md` R6). -/
def hi8 (w : W16) : Byte := w.extractLsb' 8 8

/-- `lo8(w) = w[7:0]` (`00_scope.md` R6). -/
def lo8 (w : W16) : Byte := w.extractLsb' 0 8

/-- `zext_16(b)` (`00_scope.md` R6). -/
def zext16 (b : Byte) : W16 := b.setWidth 16

/-- `be16(w)`, the big-endian image of a 16-bit value (`00_scope.md` R7, `20_memory.md` R43). -/
def be16 (w : W16) : List Byte := [hi8 w, lo8 w]

/-- The 16-bit value of a high byte and a low byte: `rd16` of a big-endian pair (`00_scope.md` R7), and the checksum
found in an RTU trailer (`42_frame_decode.md` R140). -/
def word16 (hi lo : Byte) : W16 := BitVec.ofNat 16 (hi.toNat * 256 + lo.toNat)

/-- `ceil8(n) = (n + 7) div 8` (`00_scope.md` R6). -/
def ceil8 (n : Nat) : Nat := (n + 7) / 8

/-- `B[i ..< j]` (`00_scope.md` R7). -/
def subseq (B : List Byte) (i j : Nat) : List Byte := (B.take j).drop i

end Sys2Proof.Machine
end

