-- ==== Sys2Proof/Machine/State.lean ====
section
/-! DEFINITION. The state of the block (`10_state.md`), the reasons a step can stop, and the state after reset. -/

namespace Sys2Proof.Machine

/-- One byte buffer: (index, byte) pairs, indices strictly rising; an index not listed holds a byte the spec leaves
unspecified (notes/assumptions/5.md, 6.md). -/
abbrev Memory := List Host.Cell

/-- Why the machine stops. No command raises one. -/
inductive Fault where
  /-- Raised by a host access to `IN[i]` with `i >= IN_CAP` or `OUT[i]` with `i >= OUT_CAP`: the buffers have no such
  elements (`93_implementation_defined.md` U15). Safe: the spec defines no such run. -/
  | noSuchByte (b : Buffer) (i : Nat)
  deriving DecidableEq, Repr

/-- Why an instruction has no meaning. -/
inductive Refusal where
  /-- Raised by an arm of `exec` whose instruction has no meaning yet (none is left). Safe: nothing is claimed. -/
  | notModelled (mnemonic : String)
  deriving DecidableEq, Repr

/-- The errors a command can end in (`60_exceptions.md` R250). -/
inductive CmdError where
  | framing
  | arg
  | unsupportedFc
  | illegalCmd
  | overflow
  deriving DecidableEq, Repr

/-- What a command that succeeds leaves behind: the result record (`00_scope.md` R9), `OUT_LEN` being the length of
`out` (`10_state.md` R17). Fields a command has no value for are 0 (`10_state.md` R12, R15). -/
structure ResultRecord where
  /-- `STATUS`. -/
  status : W16 := 0#16
  /-- `OUT[0 ..< OUT_LEN]`. -/
  out : List Byte := []
  /-- `R[0]`. -/
  r0 : W16 := 0#16
  /-- `R[1]`. -/
  r1 : W16 := 0#16
  /-- `R[2]`. -/
  r2 : W16 := 0#16
  deriving DecidableEq, Repr

/-- The state of the machine. -/
structure State where
  /-- `A[0]` (`10_state.md` R11). -/
  a0 : W16
  /-- `A[1]` (R11). -/
  a1 : W16
  /-- `A[2]` (R11). -/
  a2 : W16
  /-- `A[3]` (R11): read by no command. -/
  a3 : W16
  /-- `R[0]` (R12). -/
  r0 : W16
  /-- `R[1]` (R12). -/
  r1 : W16
  /-- `R[2]` (R12). -/
  r2 : W16
  /-- `CMD` (R14). -/
  cmd : W16
  /-- `STATUS` (R15). -/
  status : W16
  /-- `IN_LEN` (R16). -/
  inLen : W16
  /-- `OUT_LEN` (R17). -/
  outLen : W16
  /-- `IN` (R18). -/
  inMem : Memory
  /-- `OUT` (R19). -/
  outMem : Memory
  /-- `IN_CAP`, `OUT_CAP`, `WFR_RECLEN`: fixed for the life of the machine (`00_scope.md` R5, notes/assumptions/3.md). -/
  params : Params
  /-- The model's own: what the host does next, first action first (notes/assumptions/1.md). -/
  pending : List HostAction
  /-- The model's own: the value the host's last read returned (notes/assumptions/7.md). -/
  readBus : W16
  /-- The model's own: which draw of free values the unwritten bytes of `IN` read from (notes/assumptions/5.md). -/
  inEpoch : Nat
  /-- The model's own: which draw of free values the unspecified bytes of `OUT` read from (notes/assumptions/6.md). -/
  outEpoch : Nat
  deriving DecidableEq, Repr

/-- The state after reset of a machine with parameters `p` (`10_state.md` R25; `A[*]` 0 is notes/assumptions/4.md). -/
def State.resetWith (p : Params) : State :=
  { a0 := 0#16, a1 := 0#16, a2 := 0#16, a3 := 0#16, r0 := 0#16, r1 := 0#16, r2 := 0#16,
    cmd := 0#16, status := 0#16, inLen := 0#16, outLen := 0#16, inMem := [], outMem := [],
    params := p, pending := [], readBus := 0#16, inEpoch := 0, outEpoch := 0 }

/-- The state after reset, with the default parameters (`10_state.md` R25, `00_scope.md` R5). -/
def State.reset : State := State.resetWith Config.defaultParams

end Sys2Proof.Machine
end

