-- ==== Sys2Proof/Machine/Flags.lean ====
section
/-! DEFINITION. Every `STATUS` value a command writes, and the fields of `STATUS` (`10_state.md` R15,
`60_exceptions.md` R250, R251). -/

namespace Sys2Proof.Machine

/-- The code of an error (`60_exceptions.md` R250). -/
def CmdError.code : CmdError → BitVec 3
  | .framing => 1#3
  | .arg => 2#3
  | .unsupportedFc => 3#3
  | .illegalCmd => 4#3
  | .overflow => 5#3

/-- `STATUS` from its fields: bits 15:5 are 0 (`10_state.md` R15). -/
def statusWord (err : BitVec 3) (csumOk csumBad : Bool) : W16 :=
  0#11 ++ BitVec.ofBool csumBad ++ BitVec.ofBool csumOk ++ err

/-- `STATUS` after a success that is no `DECF` (`10_state.md` R15). -/
def statusSuccess : W16 := statusWord 0#3 false false

/-- `STATUS` after a successful `DECF`: exactly one checksum flag (`10_state.md` R15). -/
def statusDecoded (ok : Bool) : W16 := statusWord 0#3 ok (!ok)

/-- `STATUS` after an error (`60_exceptions.md` R251). -/
def statusError (e : CmdError) : W16 := statusWord e.code false false

/-- `STATUS.ERR`, bits 2:0 (`10_state.md` R15). -/
def State.err (s : State) : BitVec 3 := s.status.extractLsb' 0 3

/-- `STATUS.CSUM_OK`, bit 3 (`10_state.md` R15). -/
def State.csumOk (s : State) : Bool := s.status.getLsbD 3

/-- `STATUS.CSUM_BAD`, bit 4 (`10_state.md` R15). -/
def State.csumBad (s : State) : Bool := s.status.getLsbD 4

end Sys2Proof.Machine
end

