-- ==== Sys2Proof/Machine/Ops.lean ====
section
/-! DEFINITION. The named operations over buffers and registers, and the two ends of a command: the error result
(the block's "trap entry", `60_exceptions.md` R251) and the delivery of a result record (`10_state.md` R12, R15, R17,
R19). There is no return from an error: nothing is entered (`60_exceptions.md` R260, R261). -/

namespace Sys2Proof.Machine

/-- The byte listed at an index, if any. -/
def Memory.read? : Memory → Nat → Option Byte
  | [], _ => none
  | (a, b) :: m, i => if a = i then some b else Memory.read? m i

/-- Store one byte, keeping the indices strictly rising. -/
def Memory.write : Memory → Nat → Byte → Memory
  | [], i, v => [(i, v)]
  | (a, b) :: m, i, v =>
    if i < a then (i, v) :: (a, b) :: m
    else if i = a then (i, v) :: m
    else (a, b) :: Memory.write m i v

/-- `MemWrite(i, n, S)`: byte `S[k]` at index `i + k` (`20_memory.md` R42). -/
def Memory.writeSeq : Memory → Nat → List Byte → Memory
  | m, _, [] => m
  | m, i, b :: bs => Memory.writeSeq (Memory.write m i b) (i + 1) bs

/-- The canonical form: indices strictly rising. An unlisted index holds a free value and not a fixed byte, so there
is no entry that repeats what an unlisted index reads as (notes/assumptions/5.md). -/
abbrev Memory.wf (m : Memory) : Prop := (m.map Prod.fst).Pairwise (· < ·)

/-- The listed bytes of a buffer. -/
def State.mem (s : State) : Buffer → Memory
  | .inBuf => s.inMem
  | .outBuf => s.outMem

/-- Which draw of free values the unlisted bytes of a buffer read from. -/
def State.epoch (s : State) : Buffer → Nat
  | .inBuf => s.inEpoch
  | .outBuf => s.outEpoch

/-- One byte of a buffer: what was stored there, else a free value (`10_state.md` R18, R19, R25;
`93_implementation_defined.md` U2, U3). -/
def State.readByte (s : State) (b : Buffer) (i : Nat) : Byte :=
  (Memory.read? (s.mem b) i).getD (Config.unspecifiedByte b (s.epoch b) i)

/-- `MemRead(b+i, n)` (`20_memory.md` R41). -/
def State.memRead (s : State) (b : Buffer) (i n : Nat) : List Byte :=
  (List.range n).map fun k => s.readByte b (i + k)

/-- `OPND = MemRead(IN+0, IN_LEN)` (`00_scope.md` R8, `20_memory.md` R58). -/
def State.opnd (s : State) : List Byte := s.memRead .inBuf 0 s.inLen.toNat

/-- `OUT[0 ..< OUT_LEN]`, the produced sequence (`10_state.md` R19). -/
def State.produced (s : State) : List Byte := s.memRead .outBuf 0 s.outLen.toNat

/-- `CMD <- w`, the first step of issuing a command (`30_encoding.md` R78). -/
def State.setCmd (s : State) (w : W16) : State := { s with cmd := w }

/-- What the host will do next. -/
def State.setPending (s : State) (l : List HostAction) : State := { s with pending := l }

/-- The error result (`60_exceptions.md` R251): `STATUS` is the code, `OUT_LEN` and `R[*]` are 0. No byte of `OUT` is
specified any more, so none is listed and a new draw begins (`10_state.md` R19; notes/assumptions/6.md). -/
def State.raise (s : State) (e : CmdError) : State :=
  { s with
    status := statusError e, outLen := 0#16, r0 := 0#16, r1 := 0#16, r2 := 0#16,
    outMem := [], outEpoch := s.outEpoch + 1 }

/-- The success of a command that rewrites the result record: `MemWrite(OUT+0, len(S), S)`, `OUT_LEN <- len(S)`,
`R[*]` and `STATUS` (`20_memory.md` R42, `10_state.md` R12, R15, R17). Bytes at or beyond `OUT_LEN` become
unspecified: a new draw begins (`10_state.md` R19; notes/assumptions/6.md). -/
def State.deliver (s : State) (r : ResultRecord) : State :=
  { s with
    status := r.status, outLen := BitVec.ofNat 16 r.out.length, r0 := r.r0, r1 := r.r1, r2 := r.r2,
    outMem := Memory.writeSeq [] 0 r.out, outEpoch := s.outEpoch + 1 }

/-- The success of `XFER`: `MemWrite(IN+0, OUT_LEN, OUT)`, `IN_LEN <- OUT_LEN`, `STATUS <- 0` (`44_transfer.md` R200). -/
def State.transfer (s : State) : State :=
  { s with
    inMem := Memory.writeSeq s.inMem 0 s.produced, inLen := s.outLen, status := statusSuccess }

/-- The end of a command (`30_encoding.md` R78, steps 4 to 8): an error found by the command's own checks, then the
size of the produced sequence against `OUT_CAP` (`60_exceptions.md` R256, R259), then the result record. -/
def State.complete (s : State) : Except CmdError ResultRecord → State
  | .error e => s.raise e
  | .ok r => if s.params.outCap < r.out.length then s.raise .overflow else s.deliver r

end Sys2Proof.Machine
end

