-- ==== Sys2Proof/Machine/Operands.lean ====
section
/-! DEFINITION. Operand forms: the operand stream and its check, and the four stream layouts
(`30_encoding.md` R70 to R72). Registers are read as plain fields: none is hard-wired (`10_state.md` R11). -/

namespace Sys2Proof.Machine

/-- A command that reads `OPND`: `Arg` where `IN_LEN > IN_CAP`, before anything else of the command
(`30_encoding.md` R78 step 4, `60_exceptions.md` R254). -/
def State.withOpnd (s : State) (k : List Byte → Except CmdError ResultRecord) : Except CmdError ResultRecord :=
  if s.params.inCap < s.inLen.toNat then .error .arg else k s.opnd

/-- A coil stream: one byte per coil, 0x00 off, anything else on (`30_encoding.md` R72, `43_pdu_encode.md` R174). -/
def coilStream (B : List Byte) : List Bool := B.map fun b => b != 0#8

/-- The byte of one chunk of coils, first coil in bit 0 (`43_pdu_encode.md` R173). -/
def packChunk : List Bool → Nat
  | [] => 0
  | c :: cs => c.toNat + 2 * packChunk cs

/-- `pack_coils(c)`: chunks of eight, `ceil8(n)` bytes, unused high bits 0 (`43_pdu_encode.md` R173). -/
def packCoils (c : List Bool) : List Byte :=
  (List.range (ceil8 c.length)).map fun j => BitVec.ofNat 8 (packChunk ((c.drop (8 * j)).take 8))

/-- One write sub-request: file, record, and its data words as bytes (`30_encoding.md` R72). -/
structure WriteSub where
  /-- The file number. -/
  file : W16
  /-- The record number. -/
  record : W16
  /-- The number of data words, `k`. -/
  count : W16
  /-- The data words, two bytes each, high byte first. -/
  data : List Byte
  deriving DecidableEq, Repr

/-- A write-sub-request stream, read by the loop of `43_pdu_encode.md` R178: a header of six bytes, then `2k` data
bytes; `none` where the stream ends inside a header or inside the data. The first argument bounds the number of
sub-requests; the length of the stream is enough. -/
def writeSubs : Nat → List Byte → Option (List WriteSub)
  | _, [] => some []
  | fuel + 1, f1 :: f0 :: r1 :: r0 :: k1 :: k0 :: rest =>
    let k := word16 k1 k0
    if rest.length < 2 * k.toNat then none
    else match writeSubs fuel (rest.drop (2 * k.toNat)) with
      | none => none
      | some subs =>
        some ({ file := word16 f1 f0, record := word16 r1 r0, count := k, data := rest.take (2 * k.toNat) } :: subs)
  | _, _ => none

/-- The bytes a write sub-request becomes in the PDU (`43_pdu_encode.md` R178). -/
def WriteSub.emit (wfr : RecLen) (u : WriteSub) : List Byte :=
  [0x06#8] ++ be16 u.file ++ be16 u.record ++
    (match wfr with
      | .present => be16 u.count
      | .absent => []) ++ u.data

/-- The read sub-requests of a stream of whole six-byte items, each with its reference type
(`30_encoding.md` R72, `43_pdu_encode.md` R177). -/
def readSubs (B : List Byte) : List Byte :=
  ((List.range (B.length / 6)).map fun n => 0x06#8 :: subseq B (6 * n) (6 * n + 6)).flatten

end Sys2Proof.Machine
end

