-- ==== Sys2Proof/Machine/Checksum.lean ====
section
/-! DEFINITION. The checksum functions and the commands `CRC16`, `LRC8` (`40_checksum.md`). -/

namespace Sys2Proof.Machine

/-- `crc16_bit(acc)` (`40_checksum.md` R100): the bit tested is bit 0 before the shift. -/
def crc16Bit (acc : W16) : W16 :=
  if acc.getLsbD 0 then (acc >>> 1) ^^^ 0xA001#16 else acc >>> 1

/-- `crc16_byte(acc, b)`: the byte enters the low half, then eight steps (`40_checksum.md` R101). -/
def crc16Byte (acc : W16) (b : Byte) : W16 := crc16Bit^[8] (acc ^^^ zext16 b)

/-- `crc16(B)` (`40_checksum.md` R102). -/
def crc16 (B : List Byte) : W16 := B.foldl crc16Byte 0xFFFF#16

/-- The sum of all bytes (`40_checksum.md` R105, before `mod 256`). -/
def byteSum : List Byte → Nat
  | [] => 0
  | b :: B => b.toNat + byteSum B

/-- `lrc8(B)`: the two's complement of the sum modulo 256 (`40_checksum.md` R105). -/
def lrc8 (B : List Byte) : Byte := BitVec.ofNat 8 ((256 - byteSum B % 256) % 256)

/-- `CRC16` (`40_checksum.md` R103). -/
def execCrc16 (s : State) : Host.Outcome State Fault Refusal :=
  .next (s.complete (s.withOpnd fun B => .ok { status := statusSuccess, r0 := crc16 B }))

/-- `LRC8` (`40_checksum.md` R106). -/
def execLrc8 (s : State) : Host.Outcome State Fault Refusal :=
  .next (s.complete (s.withOpnd fun B => .ok { status := statusSuccess, r0 := zext16 (lrc8 B) }))

end Sys2Proof.Machine
end

