-- ==== Sys2Proof/Machine/FrameEncode.lean ====
section
/-! DEFINITION. The frame encoders and the commands `ENCF.RTU`, `ENCF.ASCII` (`41_frame_encode.md`). -/

namespace Sys2Proof.Machine

/-- The three ASCII codes outside the digits (`00_scope.md` R7): `:`, CR, LF. -/
def chColon : Byte := 0x3A#8

/-- Carriage return (`00_scope.md` R7). -/
def chCR : Byte := 0x0D#8

/-- Line feed (`00_scope.md` R7). -/
def chLF : Byte := 0x0A#8

/-- `hexchar(v)` for `v <= 15`: a lowercase digit (`30_encoding.md` R67). -/
def hexChar (v : Nat) : Byte := if v ≤ 9 then BitVec.ofNat 8 (0x30 + v) else BitVec.ofNat 8 (0x61 + (v - 10))

/-- `hex(b)`: high nibble first (`30_encoding.md` R67, `20_memory.md` R45). -/
def hexByte (b : Byte) : List Byte :=
  [hexChar (b.extractLsb' 4 4).toNat, hexChar (b.extractLsb' 0 4).toNat]

/-- `hexseq(S)` (`41_frame_encode.md` R122). -/
def hexSeq (S : List Byte) : List Byte := (S.map hexByte).flatten

/-- `enc_rtu(a, P)`: the CRC trailer is low byte first (`41_frame_encode.md` R120, `20_memory.md` R44). -/
def encRtu (a : Byte) (P : List Byte) : List Byte :=
  [a] ++ P ++ [lo8 (crc16 ([a] ++ P)), hi8 (crc16 ([a] ++ P))]

/-- `enc_ascii(a, P)`: the LRC is over the binary bytes (`41_frame_encode.md` R123). -/
def encAscii (a : Byte) (P : List Byte) : List Byte :=
  [chColon] ++ hexSeq ([a] ++ P ++ [lrc8 ([a] ++ P)]) ++ [chCR, chLF]

/-- The common part of the encoders: the stream check, the address check (`41_frame_encode.md` R125), then the frame
and the checksum placed in it (`10_state.md` R12). -/
def encodeFrame (enc : Byte → List Byte → List Byte) (checksum : List Byte → W16) (s : State) :
    Except CmdError ResultRecord :=
  s.withOpnd fun P =>
    if Config.maxSlaveAddress < s.a0.toNat then .error .arg
    else .ok { status := statusSuccess, out := enc (lo8 s.a0) P, r0 := checksum ([lo8 s.a0] ++ P) }

/-- `ENCF.RTU` (`41_frame_encode.md` R121). -/
def execEncfRtu (s : State) : Host.Outcome State Fault Refusal :=
  .next (s.complete (encodeFrame encRtu crc16 s))

/-- `ENCF.ASCII` (`41_frame_encode.md` R124). -/
def execEncfAscii (s : State) : Host.Outcome State Fault Refusal :=
  .next (s.complete (encodeFrame encAscii (fun B => zext16 (lrc8 B)) s))

end Sys2Proof.Machine
end

