-- ==== Sys2Proof/Machine/FrameDecode.lean ====
section
/-! DEFINITION. The frame decoders and the commands `DECF.RTU`, `DECF.ASCII` (`42_frame_decode.md`). -/

namespace Sys2Proof.Machine

/-- A decoded frame with checksums of `w` bits (`42_frame_decode.md` R140, R143). -/
structure DecodedFrame (w : Nat) where
  /-- The address byte, unchecked (`42_frame_decode.md` R148). -/
  addr : Byte
  /-- The PDU, unchecked (`30_encoding.md` R79). -/
  pdu : List Byte
  /-- The document's `checksumOk`. -/
  ok : Bool
  /-- The checksum computed over address and PDU. -/
  computed : BitVec w
  /-- The checksum found in the trailer. -/
  found : BitVec w
  deriving DecidableEq, Repr

/-- `F[i]` (`00_scope.md` R7), used only for an index inside `F`. -/
def byteAt (F : List Byte) (i : Nat) : Byte := F.getD i 0#8

/-- `dec_rtu(F)`; `none` is the framing error (`42_frame_decode.md` R140). -/
def decRtu (F : List Byte) : Option (DecodedFrame 16) :=
  let n := F.length
  if n < 3 then none
  else
    let computed := crc16 (subseq F 0 (n - 2))
    let found := word16 (byteAt F (n - 1)) (byteAt F (n - 2))
    some { addr := byteAt F 0, pdu := subseq F 1 (n - 2), ok := computed == found, computed := computed, found := found }

/-- `hexval(ch)`: both cases of letters; `none` where it is undefined (`30_encoding.md` R68). -/
def hexVal (ch : Byte) : Option Nat :=
  if 0x30 ≤ ch.toNat ∧ ch.toNat ≤ 0x39 then some (ch.toNat - 0x30)
  else if 0x61 ≤ ch.toNat ∧ ch.toNat ≤ 0x66 then some (ch.toNat - 0x61 + 10)
  else if 0x41 ≤ ch.toNat ∧ ch.toNat ≤ 0x46 then some (ch.toNat - 0x41 + 10)
  else none

/-- `unhex(c1, c2) = hexval(c1) * 16 + hexval(c2)` (`30_encoding.md` R68). -/
def unhex (c1 c2 : Byte) : Option Byte :=
  match hexVal c1, hexVal c2 with
  | some h, some l => some (BitVec.ofNat 8 (h * 16 + l))
  | _, _ => none

/-- `D[j] = unhex(F[1 + 2j], F[2 + 2j])`, pair by pair (`42_frame_decode.md` R143); `none` at a character that is no
digit, or at an odd number of them. -/
def unhexPairs : List Byte → Option (List Byte)
  | [] => some []
  | [_] => none
  | c1 :: c2 :: cs =>
    match unhex c1 c2, unhexPairs cs with
    | some b, some D => some (b :: D)
    | _, _ => none

/-- A well-formed ASCII frame: conditions (a) to (e) of `42_frame_decode.md` R142. -/
def asciiWellFormed (F : List Byte) : Bool :=
  let n := F.length
  decide (7 ≤ n) && byteAt F 0 == chColon && (byteAt F (n - 2) == chCR && byteAt F (n - 1) == chLF) &&
    n % 2 == 1 && (subseq F 1 (n - 2)).all fun ch => (hexVal ch).isSome

/-- `dec_ascii(F)`; `none` is the framing error (`42_frame_decode.md` R142, R143). -/
def decAscii (F : List Byte) : Option (DecodedFrame 8) :=
  if asciiWellFormed F then
    match unhexPairs (subseq F 1 (F.length - 2)) with
    | none => none
    | some D =>
      let k := D.length
      let computed := lrc8 (subseq D 0 (k - 1))
      let found := byteAt D (k - 1)
      some { addr := byteAt D 0, pdu := subseq D 1 (k - 1), ok := computed == found, computed := computed, found := found }
  else none

/-- The result of a decoder: the framing error, or PDU, both checksums, the address and the verdict
(`42_frame_decode.md` R141, R144 to R146). -/
def decodedResult {w : Nat} (widen : BitVec w → W16) : Option (DecodedFrame w) → Except CmdError ResultRecord
  | none => .error .framing
  | some d => .ok { status := statusDecoded d.ok, out := d.pdu, r0 := widen d.computed, r1 := widen d.found, r2 := zext16 d.addr }

/-- `DECF.RTU` (`42_frame_decode.md` R141). -/
def execDecfRtu (s : State) : Host.Outcome State Fault Refusal :=
  .next (s.complete (s.withOpnd fun F => decodedResult id (decRtu F)))

/-- `DECF.ASCII` (`42_frame_decode.md` R144). -/
def execDecfAscii (s : State) : Host.Outcome State Fault Refusal :=
  .next (s.complete (s.withOpnd fun F => decodedResult zext16 (decAscii F)))

end Sys2Proof.Machine
end

