-- ==== Sys2Proof/Machine/PduEncode.lean ====
section
/-! DEFINITION. The request-PDU encode commands `PDUENC.<fc>` (`43_pdu_encode.md`). -/

namespace Sys2Proof.Machine

/-- A produced PDU: `R[*]` and the flags 0 (`43_pdu_encode.md` R160). -/
def pduResult (pdu : List Byte) : Except CmdError ResultRecord := .ok { status := statusSuccess, out := pdu }

/-- A one-byte count or length field; the rules check `n <= 255` first (`30_encoding.md` R70, R73). -/
def byteField (n : Nat) : Byte := BitVec.ofNat 8 n

/-- Layout `P2`: function code, `A[0]`, a 16-bit field (`30_encoding.md` R69). -/
def pduTwoWords (fc : Byte) (address field : W16) : List Byte := [fc] ++ be16 address ++ be16 field

/-- `PDUENC.1`, Read Coils (`43_pdu_encode.md` R161). -/
def execPduenc1 (s : State) : Host.Outcome State Fault Refusal :=
  .next (s.complete (pduResult (pduTwoWords 0x01#8 s.a0 s.a1)))

/-- `PDUENC.2`, Read Discretes (`43_pdu_encode.md` R162). -/
def execPduenc2 (s : State) : Host.Outcome State Fault Refusal :=
  .next (s.complete (pduResult (pduTwoWords 0x02#8 s.a0 s.a1)))

/-- `PDUENC.3`, Read Holding Registers (`43_pdu_encode.md` R163). -/
def execPduenc3 (s : State) : Host.Outcome State Fault Refusal :=
  .next (s.complete (pduResult (pduTwoWords 0x03#8 s.a0 s.a1)))

/-- `PDUENC.4`, Read Input Registers (`43_pdu_encode.md` R164). -/
def execPduenc4 (s : State) : Host.Outcome State Fault Refusal :=
  .next (s.complete (pduResult (pduTwoWords 0x04#8 s.a0 s.a1)))

/-- `PDUENC.5`, Write Single Coil: any nonzero value becomes 0xFF00 (`43_pdu_encode.md` R165). -/
def execPduenc5 (s : State) : Host.Outcome State Fault Refusal :=
  .next (s.complete (pduResult (pduTwoWords 0x05#8 s.a0 (if s.a1 = 0#16 then 0x0000#16 else 0xFF00#16))))

/-- `PDUENC.6`, Write Single Register (`43_pdu_encode.md` R166). -/
def execPduenc6 (s : State) : Host.Outcome State Fault Refusal :=
  .next (s.complete (pduResult (pduTwoWords 0x06#8 s.a0 s.a1)))

/-- `PDUENC.7`, Report Exceptions (`43_pdu_encode.md` R170). -/
def execPduenc7 (s : State) : Host.Outcome State Fault Refusal :=
  .next (s.complete (pduResult [0x07#8]))

/-- `PDUENC.8`, Diagnostics: the payload is copied verbatim (`43_pdu_encode.md` R167). -/
def execPduenc8 (s : State) : Host.Outcome State Fault Refusal :=
  .next (s.complete (s.withOpnd fun B => pduResult ([0x08#8] ++ be16 s.a0 ++ B)))

/-- `PDUENC.11`, Get Comm Event Counter (`43_pdu_encode.md` R168). -/
def execPduenc11 (s : State) : Host.Outcome State Fault Refusal :=
  .next (s.complete (pduResult [0x0B#8]))

/-- `PDUENC.12`, Get Comm Event Log (`43_pdu_encode.md` R169). -/
def execPduenc12 (s : State) : Host.Outcome State Fault Refusal :=
  .next (s.complete (pduResult [0x0C#8]))

/-- `PDUENC.15`, Write Multiple Coils (`43_pdu_encode.md` R174). -/
def execPduenc15 (s : State) : Host.Outcome State Fault Refusal :=
  .next (s.complete (s.withOpnd fun B =>
    if 255 < ceil8 B.length then .error .arg
    else pduResult ([0x0F#8] ++ be16 s.a0 ++ be16 (BitVec.ofNat 16 B.length) ++ [byteField (ceil8 B.length)] ++
      packCoils (coilStream B))))

/-- The checks on a word stream whose byte count takes one byte (`43_pdu_encode.md` R172, R175). -/
def withWords (B : List Byte) (r : Except CmdError ResultRecord) : Except CmdError ResultRecord :=
  if B.length % 2 ≠ 0 then .error .arg
  else if 255 < B.length then .error .arg
  else r

/-- `PDUENC.16`, Write Multiple Registers (`43_pdu_encode.md` R175). -/
def execPduenc16 (s : State) : Host.Outcome State Fault Refusal :=
  .next (s.complete (s.withOpnd fun B =>
    withWords B (pduResult
      ([0x10#8] ++ be16 s.a0 ++ be16 (BitVec.ofNat 16 (B.length / 2)) ++ [byteField B.length] ++ B))))

/-- `PDUENC.17`, Report Slave ID (`43_pdu_encode.md` R171). -/
def execPduenc17 (s : State) : Host.Outcome State Fault Refusal :=
  .next (s.complete (pduResult [0x11#8]))

/-- `PDUENC.20`, Read File Record (`43_pdu_encode.md` R177). -/
def execPduenc20 (s : State) : Host.Outcome State Fault Refusal :=
  .next (s.complete (s.withOpnd fun B =>
    if B.length % 6 ≠ 0 then .error .arg
    else if 255 < 7 * (B.length / 6) then .error .arg
    else pduResult ([0x14#8, byteField (7 * (B.length / 6))] ++ readSubs B)))

/-- `PDUENC.21`, Write File Record (`43_pdu_encode.md` R178). -/
def execPduenc21 (s : State) : Host.Outcome State Fault Refusal :=
  .next (s.complete (s.withOpnd fun B =>
    match writeSubs B.length B with
    | none => .error .arg
    | some subs =>
      let body := (subs.map (WriteSub.emit s.params.wfrReclen)).flatten
      if 255 < body.length then .error .arg
      else pduResult ([0x15#8, byteField body.length] ++ body)))

/-- `PDUENC.22`, Mask Write Register (`43_pdu_encode.md` R179). -/
def execPduenc22 (s : State) : Host.Outcome State Fault Refusal :=
  .next (s.complete (pduResult ([0x16#8] ++ be16 s.a0 ++ be16 s.a1 ++ be16 s.a2)))

/-- `PDUENC.23`, Read/Write Multiple Registers (`43_pdu_encode.md` R172). -/
def execPduenc23 (s : State) : Host.Outcome State Fault Refusal :=
  .next (s.complete (s.withOpnd fun B =>
    withWords B (pduResult
      ([0x17#8] ++ be16 s.a0 ++ be16 s.a1 ++ be16 s.a2 ++ be16 (BitVec.ofNat 16 (B.length / 2)) ++
        [byteField B.length] ++ B))))

/-- `PDUENC.24`, Read FIFO Queue (`43_pdu_encode.md` R176). -/
def execPduenc24 (s : State) : Host.Outcome State Fault Refusal :=
  .next (s.complete (pduResult ([0x18#8] ++ be16 s.a0)))

/-- `PDUENC.43`, Read Device ID: both operands must fit one byte (`43_pdu_encode.md` R180). -/
def execPduenc43 (s : State) : Host.Outcome State Fault Refusal :=
  .next (s.complete
    (if 255 < s.a0.toNat ∨ 255 < s.a1.toNat then .error .arg
     else pduResult [0x2B#8, 0x0E#8, lo8 s.a0, lo8 s.a1]))

end Sys2Proof.Machine
end

