-- ==== Sys2Proof/Machine/Transfer.lean ====
section
/-! DEFINITION. The command `XFER` (`44_transfer.md`). -/

namespace Sys2Proof.Machine

/-- `XFER` (`44_transfer.md` R200). -/
def execXfer (s : State) : Host.Outcome State Fault Refusal :=
  .next (if s.params.inCap < s.outLen.toNat then s.raise .overflow else s.transfer)

end Sys2Proof.Machine
end

