-- ==== Sys2Proof/Machine/Dispatch.lean ====
section
/-! DEFINITION. One arm per command. The command register already holds the issued word (`30_encoding.md` R78). -/

namespace Sys2Proof.Machine

def exec (i : Instr) (s : State) : Host.Outcome State Fault Refusal :=
  match i with
  | .crc16 => Sys2Proof.Machine.execCrc16 s
  | .lrc8 => Sys2Proof.Machine.execLrc8 s
  | .encfRtu => Sys2Proof.Machine.execEncfRtu s
  | .encfAscii => Sys2Proof.Machine.execEncfAscii s
  | .decfRtu => Sys2Proof.Machine.execDecfRtu s
  | .decfAscii => Sys2Proof.Machine.execDecfAscii s
  | .pduenc1 => Sys2Proof.Machine.execPduenc1 s
  | .pduenc2 => Sys2Proof.Machine.execPduenc2 s
  | .pduenc3 => Sys2Proof.Machine.execPduenc3 s
  | .pduenc4 => Sys2Proof.Machine.execPduenc4 s
  | .pduenc5 => Sys2Proof.Machine.execPduenc5 s
  | .pduenc6 => Sys2Proof.Machine.execPduenc6 s
  | .pduenc7 => Sys2Proof.Machine.execPduenc7 s
  | .pduenc8 => Sys2Proof.Machine.execPduenc8 s
  | .pduenc11 => Sys2Proof.Machine.execPduenc11 s
  | .pduenc12 => Sys2Proof.Machine.execPduenc12 s
  | .pduenc15 => Sys2Proof.Machine.execPduenc15 s
  | .pduenc16 => Sys2Proof.Machine.execPduenc16 s
  | .pduenc17 => Sys2Proof.Machine.execPduenc17 s
  | .pduenc20 => Sys2Proof.Machine.execPduenc20 s
  | .pduenc21 => Sys2Proof.Machine.execPduenc21 s
  | .pduenc22 => Sys2Proof.Machine.execPduenc22 s
  | .pduenc23 => Sys2Proof.Machine.execPduenc23 s
  | .pduenc24 => Sys2Proof.Machine.execPduenc24 s
  | .pduenc43 => Sys2Proof.Machine.execPduenc43 s
  | .xfer => Sys2Proof.Machine.execXfer s

end Sys2Proof.Machine
end

