-- ==== Sys2Proof/Machine/Issue.lean ====
section
/-! DEFINITION. Issuing a command word (`30_encoding.md` R78), the host's accesses (`10_state.md` R24), reset as an
event (`70_reset_and_hazards.md` R280), and the host's notation (`30_encoding.md` R75, R76). -/

namespace Sys2Proof.Machine

/-- A write of word `w` to `CMD` (`30_encoding.md` R78): `CMD <- w`, then the command, or the error of a word that
spells none (`60_exceptions.md` R252, R253). -/
def issue (w : W16) (s : State) : Host.Outcome State Fault Refusal :=
  match decode w with
  | .instr i => exec i (s.setCmd w)
  | .illegal => .next ((s.setCmd w).raise .illegalCmd)
  | .unsupportedFc => .next ((s.setCmd w).raise .unsupportedFc)

/-- The value a host read of a register returns (`10_state.md` R24). -/
def State.regValue (s : State) : Reg → W16
  | .a0 => s.a0
  | .a1 => s.a1
  | .a2 => s.a2
  | .a3 => s.a3
  | .r0 => s.r0
  | .r1 => s.r1
  | .r2 => s.r2
  | .cmd => s.cmd
  | .status => s.status
  | .inLen => s.inLen
  | .outLen => s.outLen

/-- A host write of a register (`10_state.md` R24): `CMD` issues, read-only registers ignore it. -/
def hostWriteReg (r : Reg) (v : W16) (s : State) : Host.Outcome State Fault Refusal :=
  match r with
  | .a0 => .next { s with a0 := v }
  | .a1 => .next { s with a1 := v }
  | .a2 => .next { s with a2 := v }
  | .a3 => .next { s with a3 := v }
  | .inLen => .next { s with inLen := v }
  | .cmd => issue v s
  | .status => .next s
  | .outLen => .next s
  | .r0 => .next s
  | .r1 => .next s
  | .r2 => .next s

/-- A host write of one buffer byte (`10_state.md` R24): `IN` takes it, `OUT` ignores it; an index outside the buffer
is no host action (`93_implementation_defined.md` U15; notes/assumptions/9.md). -/
def hostWriteByte (b : Buffer) (i : Nat) (v : Byte) (s : State) : Host.Outcome State Fault Refusal :=
  if i < s.params.cap b then
    match b with
    | .inBuf => .next { s with inMem := Memory.write s.inMem i v }
    | .outBuf => .next s
  else .fault (.noSuchByte b i)

/-- A host read of one buffer byte (`10_state.md` R24; notes/assumptions/7.md, 9.md). -/
def hostReadByte (b : Buffer) (i : Nat) (s : State) : Host.Outcome State Fault Refusal :=
  if i < s.params.cap b then .next { s with readBus := zext16 (s.readByte b i) }
  else .fault (.noSuchByte b i)

/-- Reset as an event (`70_reset_and_hazards.md` R280): the reset state of the same machine, with new draws of the
unspecified bytes; what the host does next and what it last read are its own (notes/assumptions/8.md). -/
def State.resetEvent (s : State) : State :=
  { State.resetWith s.params with
    pending := s.pending, readBus := s.readBus, inEpoch := s.inEpoch + 1, outEpoch := s.outEpoch + 1 }

/-- What one host action does to the block. -/
def hostAct (a : HostAction) (s : State) : Host.Outcome State Fault Refusal :=
  match a with
  | .writeReg r v => hostWriteReg r v s
  | .readReg r => .next { s with readBus := s.regValue r }
  | .writeByte b i v => hostWriteByte b i v s
  | .readByte b i => hostReadByte b i s
  | .skipIfErr n => .next (if s.err = 0#3 then s else s.setPending (s.pending.drop n))
  | .reset => .next s.resetEvent

/-- One step: the host's next action, or nothing where it has stopped issuing
(`70_reset_and_hazards.md` R292, `60_exceptions.md` R270; notes/assumptions/2.md). -/
def hostStep (s : State) : Host.Outcome State Fault Refusal :=
  match s.pending with
  | [] => .next s
  | a :: rest => hostAct a (s.setPending rest)

/-- The state whose next step issues the word `w` (notes/assumptions/1.md). -/
def State.issueNext (s : State) (w : W16) : State := s.setPending (.writeReg .cmd w :: s.pending)

/-- `WR A<i>, <value>` for `A[0]` (`30_encoding.md` R75). -/
def hostWrA0 (v : W16) : List HostAction := [.writeReg .a0 v]

/-- `LDIN [b0 .. b(n-1)]`: writes `IN[0 ..< n]` and `IN_LEN <- n` (`30_encoding.md` R75). -/
def hostLdin (B : List Byte) : List HostAction :=
  (List.range B.length).map (fun i => HostAction.writeByte .inBuf i (B.getD i 0#8)) ++
    [.writeReg .inLen (BitVec.ofNat 16 B.length)]

/-- The host writes the command word of a mnemonic (`30_encoding.md` R75). -/
def hostIssue (i : Instr) : List HostAction := [.writeReg .cmd (encode i)]

/-- The pseudo-instructions `REQ.RTU` and `REQ.ASCII` (`30_encoding.md` R76), `framing` being `ENCF.RTU` or
`ENCF.ASCII`: `PDUENC.<fc>` ; `XFER` ; `WR A0, <addr>` ; `ENCF`, stopping at the first command that ends in an
error. -/
def hostReq (framing : Instr) (fc : Byte) (addr : W16) : List HostAction :=
  [.writeReg .cmd (joinFields { op := 0x5#4, zero := 0#4, sel := fc }), .skipIfErr 4] ++
    hostIssue .xfer ++ [.skipIfErr 2] ++ hostWrA0 addr ++ hostIssue framing

end Sys2Proof.Machine
end

