-- ==== Sys2Proof/Machine/Step.lean ====
section
/-! DEFINITION. The step of the machine and the placing of a command word. -/

namespace Sys2Proof.Machine

/-- One step (`70_reset_and_hazards.md` R292; notes/assumptions/1.md). -/
def step (s : State) : Host.Outcome State Fault Refusal := hostStep s

/-- The state whose very next step issues the command word `w` of `nbits` bits: a write of it to `CMD` is put before
everything else the host will do (`10_state.md` R13, R14; notes/assumptions/1.md). -/
def State.withFetchWord (s : State) (nbits w : Nat) : State :=
  s.issueNext (BitVec.ofNat 16 (w % 2 ^ nbits))

end Sys2Proof.Machine
end

