-- ==== Sys2Proof/Safety.lean ====
section
/-! DEFINITION. The terms claims are stated in: the observable result record, what a command keeps, how a command
ends, and the invariant of the machine. -/

namespace Sys2Proof.Machine

/-- The observable result record (`00_scope.md` R9): `STATUS`, `OUT[0 ..< OUT_LEN]`, `R[0..2]`. -/
def State.result (s : State) : ResultRecord :=
  { status := s.status, out := s.produced, r0 := s.r0, r1 := s.r1, r2 := s.r2 }

/-- `t` has every operand of `s`: `A[*]`, `CMD`, `IN_LEN` and every byte of `IN` (`10_state.md` R24), and with them
the parameters and what belongs to the host. -/
structure State.KeepsOperands (s t : State) : Prop where
  a0 : t.a0 = s.a0
  a1 : t.a1 = s.a1
  a2 : t.a2 = s.a2
  a3 : t.a3 = s.a3
  cmd : t.cmd = s.cmd
  inLen : t.inLen = s.inLen
  inByte : ∀ i, t.readByte .inBuf i = s.readByte .inBuf i
  params : t.params = s.params
  pending : t.pending = s.pending
  readBus : t.readBus = s.readBus

/-- A command that succeeds with the result record `r` and keeps its operands (`30_encoding.md` R78 step 8). -/
structure State.Delivers (s t : State) (r : ResultRecord) : Prop where
  result : t.result = r
  outLen : t.outLen.toNat = r.out.length
  keeps : s.KeepsOperands t

/-- A command that ends in an error: the error result and nothing else (`60_exceptions.md` R251). -/
structure State.EndsIn (s t : State) (e : CmdError) : Prop where
  status : t.status = statusError e
  outLen : t.outLen = 0#16
  r0 : t.r0 = 0#16
  r1 : t.r1 = 0#16
  r2 : t.r2 = 0#16
  keeps : s.KeepsOperands t

/-- The eight values `STATUS` can hold: an error code or none, or one checksum flag (`10_state.md` R15,
`60_exceptions.md` R250, `93_implementation_defined.md` U4). -/
abbrev statusLegal (w : W16) : Prop :=
  w ∈ [0x0000#16, 0x0001#16, 0x0002#16, 0x0003#16, 0x0004#16, 0x0005#16, 0x0008#16, 0x0010#16]

/-- The invariant of the machine: admitted parameters; both buffers in canonical form and inside their capacities;
`OUT` specified exactly below `OUT_LEN` (`10_state.md` R17, R19); `STATUS` one of its eight values (R15); nothing
delivered while `ERR` is an error (`60_exceptions.md` R251). -/
abbrev State.Inv (s : State) : Prop :=
  s.params.wf ∧ Memory.wf s.inMem ∧ (∀ c ∈ s.inMem, c.1 < s.params.inCap) ∧
    s.outMem.map Prod.fst = List.range s.outLen.toNat ∧ s.outLen.toNat ≤ s.params.outCap ∧
    statusLegal s.status ∧ (s.err ≠ 0#3 → s.outLen = 0#16 ∧ s.r0 = 0#16 ∧ s.r1 = 0#16 ∧ s.r2 = 0#16)

/-- A safe run step: the step goes on (`70_reset_and_hazards.md` R292: an error does not stop the block). -/
def State.goesOn (s : State) : Prop := ∃ t, step s = .next t

/-! ## The spec's own tables of what a command reads and of the causes of its errors -/

/-- The host-visible sources a command can read (`30_encoding.md` R71). -/
inductive Source where
  | a0 | a1 | a2
  | stream
  deriving DecidableEq, Repr

/-- The table of `30_encoding.md` R71: which registers a command reads, and whether it reads the operand stream. -/
def sourcesOf : Instr → List Source
  | .crc16 | .lrc8 => [.stream]
  | .encfRtu | .encfAscii => [.a0, .stream]
  | .decfRtu | .decfAscii => [.stream]
  | .pduenc1 | .pduenc2 | .pduenc3 | .pduenc4 => [.a0, .a1]
  | .pduenc5 => [.a0, .a1]
  | .pduenc6 => [.a0, .a1]
  | .pduenc7 | .pduenc11 | .pduenc12 | .pduenc17 => []
  | .pduenc8 => [.a0, .stream]
  | .pduenc15 => [.a0, .stream]
  | .pduenc16 => [.a0, .stream]
  | .pduenc20 => [.stream]
  | .pduenc21 => [.stream]
  | .pduenc22 => [.a0, .a1, .a2]
  | .pduenc23 => [.a0, .a1, .a2, .stream]
  | .pduenc24 => [.a0]
  | .pduenc43 => [.a0, .a1]
  | .xfer => []

/-- Two states agree on a source: the register, or `IN_LEN` and, where it is within `IN_CAP`, the bytes below it. -/
def State.sameSource (s t : State) : Source → Prop
  | .a0 => s.a0 = t.a0
  | .a1 => s.a1 = t.a1
  | .a2 => s.a2 = t.a2
  | .stream => s.inLen = t.inLen ∧
      (s.inLen.toNat ≤ s.params.inCap → ∀ i < s.inLen.toNat, s.readByte .inBuf i = t.readByte .inBuf i)

/-- The hexadecimal digit codes (`30_encoding.md` R68). -/
def isHexDigit (ch : Byte) : Prop :=
  (0x30 ≤ ch.toNat ∧ ch.toNat ≤ 0x39) ∨ (0x61 ≤ ch.toNat ∧ ch.toNat ≤ 0x66) ∨ (0x41 ≤ ch.toNat ∧ ch.toNat ≤ 0x46)

/-- Conditions (a) to (e) of `42_frame_decode.md` R142, as the rule lists them. -/
structure AsciiFrame (F : List Byte) : Prop where
  a : 7 ≤ F.length
  b : F[0]? = some 0x3A#8
  c : F[F.length - 2]? = some 0x0D#8 ∧ F[F.length - 1]? = some 0x0A#8
  d : F.length % 2 = 1
  e : ∀ i, 1 ≤ i → i ≤ F.length - 3 → ∃ ch, F[i]? = some ch ∧ isHexDigit ch

/-- The image of a write sub-request in the operand stream (`30_encoding.md` R72). -/
def WriteSub.stream (u : WriteSub) : List Byte := be16 u.file ++ be16 u.record ++ be16 u.count ++ u.data

/-- `B` is the write-sub-request stream of `subs` (`30_encoding.md` R72). -/
structure IsWriteStream (B : List Byte) (subs : List WriteSub) : Prop where
  stream : B = (subs.map WriteSub.stream).flatten
  data : ∀ u ∈ subs, u.data.length = 2 * u.count.toNat

/-- `total-length` of a function-21 PDU: `5 + 2k` bytes a sub-request, or `7 + 2k` (`43_pdu_encode.md` R178). -/
def writeTotal (wfr : RecLen) (subs : List WriteSub) : Nat :=
  (subs.map fun u => (if wfr = .present then 7 else 5) + 2 * u.count.toNat).sum

/-- The causes of `Arg` (`60_exceptions.md` R254, "complete list"). -/
def argCause (i : Instr) (s : State) : Prop :=
  match i with
  | .crc16 | .lrc8 | .decfRtu | .decfAscii | .pduenc8 => s.params.inCap < s.inLen.toNat
  | .encfRtu | .encfAscii => s.params.inCap < s.inLen.toNat ∨ 247 < s.a0.toNat
  | .pduenc15 => s.params.inCap < s.inLen.toNat ∨ 2040 < s.inLen.toNat
  | .pduenc16 | .pduenc23 =>
    s.params.inCap < s.inLen.toNat ∨ s.inLen.toNat % 2 = 1 ∨ 255 < s.inLen.toNat
  | .pduenc20 =>
    s.params.inCap < s.inLen.toNat ∨ s.inLen.toNat % 6 ≠ 0 ∨ 255 < 7 * (s.inLen.toNat / 6)
  | .pduenc21 =>
    s.params.inCap < s.inLen.toNat ∨
      ¬ ∃ subs, IsWriteStream s.opnd subs ∧ writeTotal s.params.wfrReclen subs ≤ 255
  | .pduenc43 => 255 < s.a0.toNat ∨ 255 < s.a1.toNat
  | .pduenc1 | .pduenc2 | .pduenc3 | .pduenc4 | .pduenc5 | .pduenc6 | .pduenc7 | .pduenc11 | .pduenc12 | .pduenc17
  | .pduenc22 | .pduenc24 | .xfer => False

/-- The causes of `Framing` (`60_exceptions.md` R255). -/
def framingCause (i : Instr) (s : State) : Prop :=
  match i with
  | .decfRtu => s.inLen.toNat < 3
  | .decfAscii => ¬ AsciiFrame s.opnd
  | .crc16 | .lrc8 | .encfRtu | .encfAscii | .pduenc1 | .pduenc2 | .pduenc3 | .pduenc4 | .pduenc5 | .pduenc6 | .pduenc7
  | .pduenc8 | .pduenc11 | .pduenc12 | .pduenc15 | .pduenc16 | .pduenc17 | .pduenc20 | .pduenc21 | .pduenc22 | .pduenc23
  | .pduenc24 | .pduenc43 | .xfer => False

/-- The causes of `Overflow` (`60_exceptions.md` R256, with the lengths of `43_pdu_encode.md`). -/
def overflowCause (i : Instr) (s : State) : Prop :=
  match i with
  | .encfRtu => s.params.outCap < s.inLen.toNat + 3
  | .encfAscii => s.params.outCap < 2 * s.inLen.toNat + 7
  | .decfRtu => s.params.outCap < s.inLen.toNat - 3
  | .decfAscii => s.params.outCap < (s.inLen.toNat - 3) / 2 - 2
  | .pduenc8 => s.params.outCap < 3 + s.inLen.toNat
  | .pduenc15 => s.params.outCap < 6 + (s.inLen.toNat + 7) / 8
  | .pduenc16 => s.params.outCap < 6 + s.inLen.toNat
  | .pduenc20 => s.params.outCap < 2 + 7 * (s.inLen.toNat / 6)
  | .pduenc21 => ∃ subs, IsWriteStream s.opnd subs ∧ s.params.outCap < 2 + writeTotal s.params.wfrReclen subs
  | .pduenc23 => s.params.outCap < 10 + s.inLen.toNat
  | .xfer => s.params.inCap < s.outLen.toNat
  | .crc16 | .lrc8 | .pduenc1 | .pduenc2 | .pduenc3 | .pduenc4 | .pduenc5 | .pduenc6 | .pduenc7 | .pduenc11 | .pduenc12
  | .pduenc17 | .pduenc22 | .pduenc24 | .pduenc43 => False

end Sys2Proof.Machine
end

