-- ==== Sys2Proof/Certificates/Slice0/Obligations.lean ====
section
/-! DEFINITION. The statements for the provers. Each docstring names the rules of spec/ it formalises. In a result
record (`ResultRecord`) a field that is not written stands for `STATUS = 0x0000`, an empty sequence, or 0. -/

open Sys2Proof Sys2Proof.Machine

/-! ## Command words -/

/-- `30_encoding.md` R60 to R63: each of the 65536 words spells at most one command, and each command has exactly one
word. -/
def Obligations.WordSpellsCommandIffItsEncoding : Prop :=
  ∀ (w : W16) (i : Instr), decode w = .instr i ↔ w = encode i

/-- The twenty-six words of `30_encoding.md` R61 and R63, written out. -/
def Obligations.CommandWordsOfTheTable : Prop :=
  decode 0x1000#16 = .instr .crc16 ∧ decode 0x2000#16 = .instr .lrc8 ∧
  decode 0x3000#16 = .instr .encfRtu ∧ decode 0x3001#16 = .instr .encfAscii ∧
  decode 0x4000#16 = .instr .decfRtu ∧ decode 0x4001#16 = .instr .decfAscii ∧
  decode 0x5001#16 = .instr .pduenc1 ∧ decode 0x5002#16 = .instr .pduenc2 ∧
  decode 0x5003#16 = .instr .pduenc3 ∧ decode 0x5004#16 = .instr .pduenc4 ∧
  decode 0x5005#16 = .instr .pduenc5 ∧ decode 0x5006#16 = .instr .pduenc6 ∧
  decode 0x5007#16 = .instr .pduenc7 ∧ decode 0x5008#16 = .instr .pduenc8 ∧
  decode 0x500B#16 = .instr .pduenc11 ∧ decode 0x500C#16 = .instr .pduenc12 ∧
  decode 0x500F#16 = .instr .pduenc15 ∧ decode 0x5010#16 = .instr .pduenc16 ∧
  decode 0x5011#16 = .instr .pduenc17 ∧ decode 0x5014#16 = .instr .pduenc20 ∧
  decode 0x5015#16 = .instr .pduenc21 ∧ decode 0x5016#16 = .instr .pduenc22 ∧
  decode 0x5017#16 = .instr .pduenc23 ∧ decode 0x5018#16 = .instr .pduenc24 ∧
  decode 0x502B#16 = .instr .pduenc43 ∧ decode 0x6000#16 = .instr .xfer

/-- `60_exceptions.md` R252: the causes of `IllegalCmd`, how many words they are, and that issuing such a word ends in
that error. `OP` is `w / 4096`, `ZERO` is `w / 256 % 16`, `SEL` is `w % 256`. -/
def Obligations.IllegalWordsEndInIllegalCmd : Prop :=
  (∀ w : W16, decode w = .illegal ↔
    (w.toNat / 256 % 16 ≠ 0 ∨ w.toNat / 4096 = 0 ∨ 7 ≤ w.toNat / 4096 ∨
      ((w.toNat / 4096 = 1 ∨ w.toNat / 4096 = 2 ∨ w.toNat / 4096 = 6) ∧ w.toNat % 256 ≠ 0) ∨
      ((w.toNat / 4096 = 3 ∨ w.toNat / 4096 = 4) ∧ 2 ≤ w.toNat % 256))) ∧
  ((List.range 65536).filter fun n => decide (decode (BitVec.ofNat 16 n) = .illegal)).length = 65273 ∧
  ∀ (s : State) (w : W16) (rest : List HostAction),
    s.pending = .writeReg .cmd w :: rest → decode w = .illegal →
    ∃ t, step s = .next t ∧ t.cmd = w ∧ State.EndsIn { s with cmd := w, pending := rest } t .illegalCmd

/-- `60_exceptions.md` R253, `43_pdu_encode.md` R181: the cause of `UnsupportedFc`, and that issuing such a word ends
in that error and produces nothing. -/
def Obligations.UnsupportedFunctionsEndInUnsupportedFc : Prop :=
  (∀ w : W16, decode w = .unsupportedFc ↔
    (w.toNat / 4096 = 5 ∧ w.toNat / 256 % 16 = 0 ∧
      w.toNat % 256 ∉ [1, 2, 3, 4, 5, 6, 7, 8, 11, 12, 15, 16, 17, 20, 21, 22, 23, 24, 43])) ∧
  ∀ (s : State) (w : W16) (rest : List HostAction),
    s.pending = .writeReg .cmd w :: rest → decode w = .unsupportedFc →
    ∃ t, step s = .next t ∧ t.cmd = w ∧ State.EndsIn { s with cmd := w, pending := rest } t .unsupportedFc

/-! ## Steps -/

/-- A host write of a word to `CMD` runs the command it spells, with `CMD` holding the word (`10_state.md` R14,
`30_encoding.md` R78); a word placed by `withFetchWord` runs at the very next step (notes/assumptions/1.md). -/
def Obligations.StepRunsTheDecodedCommand : Prop :=
  (∀ (s : State) (w : W16) (i : Instr) (rest : List HostAction),
    s.pending = .writeReg .cmd w :: rest → decode w = .instr i →
    step s = exec i { s with cmd := w, pending := rest }) ∧
  ∀ (s : State) (w : W16) (i : Instr),
    decode w = .instr i → step (s.withFetchWord 16 w.toNat) = exec i { s with cmd := w }

/-- `10_state.md` R24, the column "host write": `A[*]`, `IN_LEN` and `IN` take the value, any value
(`10_state.md` R16); a write to `R[*]`, `STATUS`, `OUT_LEN` or `OUT` is ignored. -/
def Obligations.HostWritesReachOnlyWritableElements : Prop :=
  ∀ (s : State) (rest : List HostAction),
    (∀ v, s.pending = .writeReg .a0 v :: rest → step s = .next { s with a0 := v, pending := rest }) ∧
    (∀ v, s.pending = .writeReg .a1 v :: rest → step s = .next { s with a1 := v, pending := rest }) ∧
    (∀ v, s.pending = .writeReg .a2 v :: rest → step s = .next { s with a2 := v, pending := rest }) ∧
    (∀ v, s.pending = .writeReg .a3 v :: rest → step s = .next { s with a3 := v, pending := rest }) ∧
    (∀ v, s.pending = .writeReg .inLen v :: rest → step s = .next { s with inLen := v, pending := rest }) ∧
    (∀ r v, r ∈ [Reg.r0, .r1, .r2, .status, .outLen] → s.pending = .writeReg r v :: rest →
      step s = .next { s with pending := rest }) ∧
    (∀ i v, i < s.params.outCap → s.pending = .writeByte .outBuf i v :: rest →
      step s = .next { s with pending := rest }) ∧
    (∀ i v, i < s.params.inCap → s.pending = .writeByte .inBuf i v :: rest →
      ∃ t, step s = .next t ∧ t.readByte .inBuf i = v ∧
        (∀ j, j ≠ i → t.readByte .inBuf j = s.readByte .inBuf j) ∧
        t = { s with inMem := t.inMem, pending := rest })

/-- `10_state.md` R24, the column "host read", and `20_memory.md` R49: every element can be read, and reading changes
nothing of the block. The value lands in the model's own `readBus` (notes/assumptions/7.md). -/
def Obligations.HostReadsChangeNothing : Prop :=
  ∀ (s : State) (rest : List HostAction),
    (∀ r, s.pending = .readReg r :: rest →
      step s = .next { s with
        pending := rest,
        readBus := match r with
          | .a0 => s.a0 | .a1 => s.a1 | .a2 => s.a2 | .a3 => s.a3
          | .r0 => s.r0 | .r1 => s.r1 | .r2 => s.r2
          | .cmd => s.cmd | .status => s.status | .inLen => s.inLen | .outLen => s.outLen }) ∧
    (∀ i, i < s.params.inCap → s.pending = .readByte .inBuf i :: rest →
      ∃ t, step s = .next t ∧ t.readBus.toNat = (s.readByte .inBuf i).toNat ∧
        t = { s with pending := rest, readBus := t.readBus }) ∧
    (∀ i, i < s.params.outCap → s.pending = .readByte .outBuf i :: rest →
      ∃ t, step s = .next t ∧ t.readBus.toNat = (s.readByte .outBuf i).toNat ∧
        t = { s with pending := rest, readBus := t.readBus })

/-- The machine stops exactly where the host touches a buffer byte that does not exist
(`93_implementation_defined.md` U15; that it faults there is the model's choice, notes/assumptions/9.md). -/
def Obligations.OnlyAbsentBufferBytesStopTheMachine : Prop :=
  ∀ s : State, (¬ ∃ t, step s = .next t) ↔
    ∃ b i rest, s.params.cap b ≤ i ∧
      ((∃ v, s.pending = .writeByte b i v :: rest) ∨ s.pending = .readByte b i :: rest)

/-- `70_reset_and_hazards.md` R280 and `10_state.md` R25: what reset leaves, at power-on and as an event
(notes/assumptions/8.md). The unspecified elements are not mentioned. The last clause about `State.reset`, its
parameters, is no part of R280: they are the defaults of `00_scope.md` R5, and that `State.reset` holds them is the
model's choice (notes/assumptions/3.md). -/
def Obligations.ResetClearsResultsAndLengths : Prop :=
  (State.reset.cmd = 0#16 ∧ State.reset.status = 0#16 ∧ State.reset.inLen = 0#16 ∧ State.reset.outLen = 0#16 ∧
    State.reset.r0 = 0#16 ∧ State.reset.r1 = 0#16 ∧ State.reset.r2 = 0#16 ∧
    State.reset.params = { inCap := 1024, outCap := 1024, wfrReclen := .absent }) ∧
  ∀ (s : State) (rest : List HostAction), s.pending = .reset :: rest →
    ∃ t, step s = .next t ∧ t.cmd = 0#16 ∧ t.status = 0#16 ∧ t.inLen = 0#16 ∧ t.outLen = 0#16 ∧
      t.r0 = 0#16 ∧ t.r1 = 0#16 ∧ t.r2 = 0#16

/-- The host that looks at `STATUS.ERR` before going on (`60_exceptions.md` R263, `30_encoding.md` R76; the action is
the model's, notes/assumptions/11.md), and the host that has stopped (`60_exceptions.md` R270,
`70_reset_and_hazards.md` R292; notes/assumptions/2.md). -/
def Obligations.HostDecisionAndIdleKeepTheBlock : Prop :=
  (∀ (s : State) (n : Nat) (rest : List HostAction), s.pending = .skipIfErr n :: rest →
    step s = .next { s with pending := if s.status.toNat % 8 = 0 then rest else rest.drop n }) ∧
  ∀ s : State, s.pending = [] → step s = .next s

/-! ## Invariants -/

/-- The invariant holds right after reset, whatever the admitted parameters. -/
def Obligations.ResetMeetsInvariant : Prop :=
  State.reset.Inv ∧ ∀ p : Params, p.wf → (State.resetWith p).Inv

/-- Every step keeps the invariant: admitted parameters, canonical buffers inside their capacities, `OUT` specified
exactly below `OUT_LEN <= OUT_CAP` (`10_state.md` R17, R19), `STATUS` one of its eight values (R15), nothing delivered
under an error (`60_exceptions.md` R251). -/
def Obligations.EveryStepKeepsInvariant : Prop :=
  ∀ s t : State, s.Inv → step s = .next t → t.Inv

/-- `10_state.md` R11, R23, R24, R25: only a host write to it or reset changes an operand register, and nothing
changes the parameters. -/
def Obligations.OnlyTheHostChangesOperandRegisters : Prop :=
  ∀ (s t : State), step s = .next t →
    t.params = s.params ∧
    (s.pending.head? ≠ some .reset →
      ((∀ v, s.pending.head? ≠ some (.writeReg .a0 v)) → t.a0 = s.a0) ∧
      ((∀ v, s.pending.head? ≠ some (.writeReg .a1 v)) → t.a1 = s.a1) ∧
      ((∀ v, s.pending.head? ≠ some (.writeReg .a2 v)) → t.a2 = s.a2) ∧
      ((∀ v, s.pending.head? ≠ some (.writeReg .a3 v)) → t.a3 = s.a3))

/-! ## Checksums -/

/-- `40_checksum.md` R100, on numbers. -/
def Obligations.Crc16BitTestsThenShifts : Prop :=
  ∀ acc : W16, (crc16Bit acc).toNat = if acc.toNat % 2 = 1 then (acc.toNat / 2) ^^^ 0xA001 else acc.toNat / 2

/-- A table-driven implementation gives the same value as the bit-serial one (`40_checksum.md` R101;
`70_reset_and_hazards.md` R291: "both must give the same value"). -/
def Obligations.Crc16TableDrivenAgrees : Prop :=
  ∀ (acc : W16) (b : Byte), crc16Byte acc b = (acc >>> 8) ^^^ crc16Byte 0#16 (lo8 acc ^^^ b)

/-- `40_checksum.md` R102: the initial value, the order of the bytes, and the residue. -/
def Obligations.Crc16InOrderWithZeroResidue : Prop :=
  crc16 [] = 0xFFFF#16 ∧
  (∀ (B : List Byte) (x : Byte), crc16 (B ++ [x]) = crc16Bit^[8] (crc16 B ^^^ BitVec.ofNat 16 x.toNat)) ∧
  ∀ B : List Byte, crc16 (B ++ [BitVec.ofNat 8 ((crc16 B).toNat % 256), BitVec.ofNat 8 ((crc16 B).toNat / 256)]) = 0#16

/-- `40_checksum.md` R107 (with R105): the LRC is the one byte that brings the sum to 0 modulo 256. -/
def Obligations.LrcIsTheByteThatZeroesTheSum : Prop :=
  ∀ B : List Byte,
    ((B.map BitVec.toNat).sum + (lrc8 B).toNat) % 256 = 0 ∧ lrc8 (B ++ [lrc8 B]) = 0#8 ∧
    ∀ v : Byte, ((B.map BitVec.toNat).sum + v.toNat) % 256 = 0 → v = lrc8 B

/-- `CRC16` (`40_checksum.md` R103): its word, no other word of that `OP`, the error and the result. -/
def Obligations.Crc16Command : Prop :=
  encode .crc16 = 0x1000#16 ∧
  (∀ w : W16, w.toNat / 256 = 0x10 → w.toNat % 256 ≠ 0 → decode w = .illegal) ∧ ∀ s : State,
    (s.params.inCap < s.inLen.toNat → ∃ t, exec .crc16 s = .next t ∧ s.EndsIn t .arg) ∧
    (s.inLen.toNat ≤ s.params.inCap →
      ∃ t, exec .crc16 s = .next t ∧ s.Delivers t { r0 := crc16 s.opnd })

/-- `LRC8` (`40_checksum.md` R106): its word, no other word of that `OP`, the error and the result. -/
def Obligations.Lrc8Command : Prop :=
  encode .lrc8 = 0x2000#16 ∧
  (∀ w : W16, w.toNat / 256 = 0x20 → w.toNat % 256 ≠ 0 → decode w = .illegal) ∧ ∀ s : State,
    (s.params.inCap < s.inLen.toNat → ∃ t, exec .lrc8 s = .next t ∧ s.EndsIn t .arg) ∧
    (s.inLen.toNat ≤ s.params.inCap →
      ∃ t, exec .lrc8 s = .next t ∧ t.r0.toNat = (lrc8 s.opnd).toNat ∧
        s.Delivers t { r0 := t.r0 })

/-! ## Frames -/

/-- `30_encoding.md` R67 and `20_memory.md` R45: the sixteen lowercase digits, high nibble first. -/
def Obligations.HexIsLowercaseHighNibbleFirst : Prop :=
  (List.range 16).map hexChar =
    [0x30#8, 0x31#8, 0x32#8, 0x33#8, 0x34#8, 0x35#8, 0x36#8, 0x37#8, 0x38#8, 0x39#8,
      0x61#8, 0x62#8, 0x63#8, 0x64#8, 0x65#8, 0x66#8] ∧
  ∀ b : Byte, hexByte b = [hexChar (b.toNat / 16), hexChar (b.toNat % 16)]

/-- `30_encoding.md` R68: the 22 digit codes and their values, the byte of two digits, and that `unhex` undoes `hex`. -/
def Obligations.UnhexUndoesHex : Prop :=
  (∀ ch : Byte, hexVal ch =
    if 0x30 ≤ ch.toNat ∧ ch.toNat ≤ 0x39 then some (ch.toNat - 0x30)
    else if 0x61 ≤ ch.toNat ∧ ch.toNat ≤ 0x66 then some (ch.toNat - 0x61 + 10)
    else if 0x41 ≤ ch.toNat ∧ ch.toNat ≤ 0x46 then some (ch.toNat - 0x41 + 10) else none) ∧
  ((List.range 256).filter fun n => (hexVal (BitVec.ofNat 8 n)).isSome).length = 22 ∧
  (∀ c1 c2 b : Byte, unhex c1 c2 = some b ↔
    ∃ h l, hexVal c1 = some h ∧ hexVal c2 = some l ∧ b.toNat = h * 16 + l) ∧
  ∀ b c1 c2 : Byte, hexByte b = [c1, c2] → unhex c1 c2 = some b

/-- `30_encoding.md` R65: the RTU frame, index by index, with the CRC low byte first (`20_memory.md` R44). -/
def Obligations.RtuFrameLayout : Prop :=
  ∀ (a : Byte) (P : List Byte),
    (encRtu a P).length = P.length + 3 ∧ (encRtu a P)[0]? = some a ∧
    (∀ i, i < P.length → (encRtu a P)[i + 1]? = P[i]?) ∧
    (encRtu a P)[P.length + 1]? = some (BitVec.ofNat 8 ((crc16 (a :: P)).toNat % 256)) ∧
    (encRtu a P)[P.length + 2]? = some (BitVec.ofNat 8 ((crc16 (a :: P)).toNat / 256))

/-- `30_encoding.md` R66: the ASCII frame, index by index, with the LRC over the binary bytes; every character is
below 0x80 (`41_frame_encode.md` R123). -/
def Obligations.AsciiFrameLayout : Prop :=
  ∀ (a : Byte) (P : List Byte),
    (encAscii a P).length = 2 * P.length + 7 ∧ (encAscii a P)[0]? = some 0x3A#8 ∧
    (encAscii a P)[1]? = some (hexChar (a.toNat / 16)) ∧ (encAscii a P)[2]? = some (hexChar (a.toNat % 16)) ∧
    (∀ i b, P[i]? = some b → (encAscii a P)[3 + 2 * i]? = some (hexChar (b.toNat / 16)) ∧
      (encAscii a P)[4 + 2 * i]? = some (hexChar (b.toNat % 16))) ∧
    (encAscii a P)[2 * P.length + 3]? = some (hexChar ((lrc8 (a :: P)).toNat / 16)) ∧
    (encAscii a P)[2 * P.length + 4]? = some (hexChar ((lrc8 (a :: P)).toNat % 16)) ∧
    (encAscii a P)[2 * P.length + 5]? = some 0x0D#8 ∧ (encAscii a P)[2 * P.length + 6]? = some 0x0A#8 ∧
    ∀ ch ∈ encAscii a P, ch.toNat < 0x80

/-- `42_frame_decode.md` R147: decoding an encoded frame gives address, PDU and a good checksum, for every byte and
every byte sequence, and an encoded ASCII frame is well-formed. -/
def Obligations.DecodersUndoEncoders : Prop :=
  ∀ (a : Byte) (P : List Byte),
    decRtu (encRtu a P) =
      some { addr := a, pdu := P, ok := true, computed := crc16 (a :: P), found := crc16 (a :: P) } ∧
    decAscii (encAscii a P) =
      some { addr := a, pdu := P, ok := true, computed := lrc8 (a :: P), found := lrc8 (a :: P) } ∧
    AsciiFrame (encAscii a P)

/-- `ENCF.RTU` (`41_frame_encode.md` R121, with the address check of R125). -/
def Obligations.EncfRtuCommand : Prop :=
  encode .encfRtu = 0x3000#16 ∧ ∀ s : State, s.params.wf →
    (s.params.inCap < s.inLen.toNat ∨ 247 < s.a0.toNat → ∃ t, exec .encfRtu s = .next t ∧ s.EndsIn t .arg) ∧
    (s.inLen.toNat ≤ s.params.inCap → s.a0.toNat ≤ 247 → s.params.outCap < s.inLen.toNat + 3 →
      ∃ t, exec .encfRtu s = .next t ∧ s.EndsIn t .overflow) ∧
    (s.inLen.toNat ≤ s.params.inCap → s.a0.toNat ≤ 247 → s.inLen.toNat + 3 ≤ s.params.outCap →
      ∃ t, exec .encfRtu s = .next t ∧
        t.r0 = crc16 (BitVec.ofNat 8 s.a0.toNat :: s.opnd) ∧
        s.Delivers t { out := encRtu (BitVec.ofNat 8 s.a0.toNat) s.opnd, r0 := t.r0 })

/-- `ENCF.ASCII` (`41_frame_encode.md` R124, with the address check of R125). -/
def Obligations.EncfAsciiCommand : Prop :=
  encode .encfAscii = 0x3001#16 ∧ ∀ s : State, s.params.wf →
    (s.params.inCap < s.inLen.toNat ∨ 247 < s.a0.toNat → ∃ t, exec .encfAscii s = .next t ∧ s.EndsIn t .arg) ∧
    (s.inLen.toNat ≤ s.params.inCap → s.a0.toNat ≤ 247 → s.params.outCap < 2 * s.inLen.toNat + 7 →
      ∃ t, exec .encfAscii s = .next t ∧ s.EndsIn t .overflow) ∧
    (s.inLen.toNat ≤ s.params.inCap → s.a0.toNat ≤ 247 → 2 * s.inLen.toNat + 7 ≤ s.params.outCap →
      ∃ t, exec .encfAscii s = .next t ∧
        t.r0.toNat = (lrc8 (BitVec.ofNat 8 s.a0.toNat :: s.opnd)).toNat ∧
        s.Delivers t { out := encAscii (BitVec.ofNat 8 s.a0.toNat) s.opnd, r0 := t.r0 })

/-- `DECF.RTU` (`42_frame_decode.md` R140, R141): index by index over the operand stream. -/
def Obligations.DecfRtuCommand : Prop :=
  encode .decfRtu = 0x4000#16 ∧ ∀ s : State, s.params.wf →
    (s.params.inCap < s.inLen.toNat → ∃ t, exec .decfRtu s = .next t ∧ s.EndsIn t .arg) ∧
    (s.inLen.toNat ≤ s.params.inCap → s.inLen.toNat < 3 → ∃ t, exec .decfRtu s = .next t ∧ s.EndsIn t .framing) ∧
    (s.inLen.toNat ≤ s.params.inCap → s.params.outCap < s.inLen.toNat - 3 →
      ∃ t, exec .decfRtu s = .next t ∧ s.EndsIn t .overflow) ∧
    (s.inLen.toNat ≤ s.params.inCap → 3 ≤ s.inLen.toNat → s.inLen.toNat - 3 ≤ s.params.outCap →
      ∃ t, exec .decfRtu s = .next t ∧ s.KeepsOperands t ∧
        t.outLen.toNat = s.inLen.toNat - 3 ∧
        (∀ k, k < s.inLen.toNat - 3 → t.readByte .outBuf k = s.readByte .inBuf (k + 1)) ∧
        t.r0 = crc16 (s.opnd.take (s.inLen.toNat - 2)) ∧
        t.r1.toNat = (s.readByte .inBuf (s.inLen.toNat - 2)).toNat +
          256 * (s.readByte .inBuf (s.inLen.toNat - 1)).toNat ∧
        t.r2.toNat = (s.readByte .inBuf 0).toNat ∧
        t.status = if t.r0 = t.r1 then 0x0008#16 else 0x0010#16)

/-- `DECF.ASCII` (`42_frame_decode.md` R142 to R144): `D` is the sequence of decoded bytes, address first, LRC last. -/
def Obligations.DecfAsciiCommand : Prop :=
  encode .decfAscii = 0x4001#16 ∧ ∀ s : State, s.params.wf →
    (s.params.inCap < s.inLen.toNat → ∃ t, exec .decfAscii s = .next t ∧ s.EndsIn t .arg) ∧
    (s.inLen.toNat ≤ s.params.inCap → ¬ AsciiFrame s.opnd →
      ∃ t, exec .decfAscii s = .next t ∧ s.EndsIn t .framing) ∧
    (s.inLen.toNat ≤ s.params.inCap → AsciiFrame s.opnd → s.params.outCap < (s.inLen.toNat - 3) / 2 - 2 →
      ∃ t, exec .decfAscii s = .next t ∧ s.EndsIn t .overflow) ∧
    (s.inLen.toNat ≤ s.params.inCap → AsciiFrame s.opnd → (s.inLen.toNat - 3) / 2 - 2 ≤ s.params.outCap →
      ∃ (t : State) (D : List Byte), exec .decfAscii s = .next t ∧ s.KeepsOperands t ∧
        D.length = (s.inLen.toNat - 3) / 2 ∧
        (∀ j, j < D.length →
          unhex (s.readByte .inBuf (1 + 2 * j)) (s.readByte .inBuf (2 + 2 * j)) = D[j]?) ∧
        t.produced = (D.drop 1).take (D.length - 2) ∧ t.outLen.toNat = D.length - 2 ∧
        (∃ l, D[D.length - 1]? = some l ∧ t.r1.toNat = l.toNat) ∧
        (∃ a, D[0]? = some a ∧ t.r2.toNat = a.toNat) ∧
        t.r0.toNat = (lrc8 (D.take (D.length - 1))).toNat ∧
        t.status = if t.r0 = t.r1 then 0x0008#16 else 0x0010#16)

/-- `10_state.md` R15 and `60_exceptions.md` R257: after a successful `DECF` exactly one checksum flag is 1, as the
checksums agree or not; after any other command, and after any error, both are 0. -/
def Obligations.ChecksumFlagsOnlyAfterDecode : Prop :=
  ∀ (i : Instr) (s t : State), exec i s = .next t →
    ((i = .decfRtu ∨ i = .decfAscii) → t.err = 0#3 →
      t.csumOk = decide (t.r0 = t.r1) ∧ t.csumBad = decide (t.r0 ≠ t.r1)) ∧
    ((i ≠ .decfRtu ∧ i ≠ .decfAscii) ∨ t.err ≠ 0#3 → t.csumOk = false ∧ t.csumBad = false) ∧
    t.status.toNat < 32

/-- `42_frame_decode.md` R149, with the operand stream of its example. -/
def Obligations.CorruptedTrailerStillDelivers : Prop :=
  ∀ s : State, s.params.wf → s.inLen = 8#16 → 8 ≤ s.params.inCap →
    s.opnd = [0x11#8, 0x03#8, 0x00#8, 0x6B#8, 0x00#8, 0x03#8, 0x76#8, 0x86#8] →
    ∃ t, exec .decfRtu s = .next t ∧
      s.Delivers t
        { status := 0x0010#16, out := [0x03#8, 0x00#8, 0x6B#8, 0x00#8, 0x03#8],
          r0 := 0x8776#16, r1 := 0x8676#16, r2 := 0x0011#16 }

/-! ## Request PDUs -/

/-- `PDUENC.1` to `PDUENC.4` (`43_pdu_encode.md` R161 to R164): function code, address, count, high bytes first. -/
def Obligations.ReadRequestPdus : Prop :=
  encode .pduenc1 = 0x5001#16 ∧ encode .pduenc2 = 0x5002#16 ∧ encode .pduenc3 = 0x5003#16 ∧ encode .pduenc4 = 0x5004#16 ∧
  ∀ (s : State) (i : Instr) (fc : Byte), s.params.wf →
    (i, fc) ∈ [(Instr.pduenc1, 0x01#8), (.pduenc2, 0x02#8), (.pduenc3, 0x03#8), (.pduenc4, 0x04#8)] →
    ∃ t, exec i s = .next t ∧
      s.Delivers t { out := [fc, BitVec.ofNat 8 (s.a0.toNat / 256), BitVec.ofNat 8 (s.a0.toNat % 256),
        BitVec.ofNat 8 (s.a1.toNat / 256), BitVec.ofNat 8 (s.a1.toNat % 256)] }

/-- `PDUENC.5` and `PDUENC.6` (`43_pdu_encode.md` R165, R166): a coil value is normalised, a register value is not. -/
def Obligations.WriteSinglePdus : Prop :=
  encode .pduenc5 = 0x5005#16 ∧ encode .pduenc6 = 0x5006#16 ∧
  ∀ s : State, s.params.wf →
    (s.a1 = 0#16 → ∃ t, exec .pduenc5 s = .next t ∧
      s.Delivers t { out := [0x05#8, BitVec.ofNat 8 (s.a0.toNat / 256), BitVec.ofNat 8 (s.a0.toNat % 256), 0x00#8, 0x00#8] }) ∧
    (s.a1 ≠ 0#16 → ∃ t, exec .pduenc5 s = .next t ∧
      s.Delivers t { out := [0x05#8, BitVec.ofNat 8 (s.a0.toNat / 256), BitVec.ofNat 8 (s.a0.toNat % 256), 0xFF#8, 0x00#8] }) ∧
    ∃ t, exec .pduenc6 s = .next t ∧
      s.Delivers t { out := [0x06#8, BitVec.ofNat 8 (s.a0.toNat / 256), BitVec.ofNat 8 (s.a0.toNat % 256),
        BitVec.ofNat 8 (s.a1.toNat / 256), BitVec.ofNat 8 (s.a1.toNat % 256)] }

/-- `PDUENC.7`, `.11`, `.12`, `.17` (`43_pdu_encode.md` R168 to R171): the function code alone. -/
def Obligations.CodeOnlyPdus : Prop :=
  encode .pduenc7 = 0x5007#16 ∧ encode .pduenc11 = 0x500B#16 ∧ encode .pduenc12 = 0x500C#16 ∧
  encode .pduenc17 = 0x5011#16 ∧
  ∀ (s : State) (i : Instr) (fc : Byte), s.params.wf →
    (i, fc) ∈ [(Instr.pduenc7, 0x07#8), (.pduenc11, 0x0B#8), (.pduenc12, 0x0C#8), (.pduenc17, 0x11#8)] →
    ∃ t, exec i s = .next t ∧ s.Delivers t { out := [fc] }

/-- `PDUENC.8` (`43_pdu_encode.md` R167): any sub-function number, the payload copied verbatim. -/
def Obligations.DiagnosticsPdu : Prop :=
  encode .pduenc8 = 0x5008#16 ∧ ∀ s : State, s.params.wf →
    (s.params.inCap < s.inLen.toNat → ∃ t, exec .pduenc8 s = .next t ∧ s.EndsIn t .arg) ∧
    (s.inLen.toNat ≤ s.params.inCap → s.params.outCap < 3 + s.inLen.toNat →
      ∃ t, exec .pduenc8 s = .next t ∧ s.EndsIn t .overflow) ∧
    (s.inLen.toNat ≤ s.params.inCap → 3 + s.inLen.toNat ≤ s.params.outCap →
      ∃ t, exec .pduenc8 s = .next t ∧
        s.Delivers t { out := [0x08#8, BitVec.ofNat 8 (s.a0.toNat / 256), BitVec.ofNat 8 (s.a0.toNat % 256)] ++ s.opnd })

/-- `43_pdu_encode.md` R173: coil `8j + i` is bit `i` of byte `j`, and padding is 0. -/
def Obligations.CoilsPackLowBitFirst : Prop :=
  ∀ c : List Bool, (packCoils c).length = (c.length + 7) / 8 ∧
    ∀ j K, (packCoils c)[j]? = some K → ∀ i, i < 8 → K.getLsbD i = c.getD (8 * j + i) false

/-- `PDUENC.15` (`43_pdu_encode.md` R174): 2040 coils at most; coil `n` is on where its byte is not 0. -/
def Obligations.WriteCoilsCommand : Prop :=
  encode .pduenc15 = 0x500F#16 ∧ ∀ s : State, s.params.wf →
    (s.params.inCap < s.inLen.toNat ∨ 2040 < s.inLen.toNat → ∃ t, exec .pduenc15 s = .next t ∧ s.EndsIn t .arg) ∧
    (s.inLen.toNat ≤ s.params.inCap → s.inLen.toNat ≤ 2040 → s.params.outCap < 6 + (s.inLen.toNat + 7) / 8 →
      ∃ t, exec .pduenc15 s = .next t ∧ s.EndsIn t .overflow) ∧
    (s.inLen.toNat ≤ s.params.inCap → s.inLen.toNat ≤ 2040 → 6 + (s.inLen.toNat + 7) / 8 ≤ s.params.outCap →
      ∃ (t : State) (K : List Byte), exec .pduenc15 s = .next t ∧
        s.Delivers t { out := [0x0F#8, BitVec.ofNat 8 (s.a0.toNat / 256), BitVec.ofNat 8 (s.a0.toNat % 256),
          BitVec.ofNat 8 (s.inLen.toNat / 256), BitVec.ofNat 8 (s.inLen.toNat % 256),
          BitVec.ofNat 8 ((s.inLen.toNat + 7) / 8)] ++ K } ∧
        K.length = (s.inLen.toNat + 7) / 8 ∧
        ∀ j b, K[j]? = some b → ∀ i, i < 8 →
          b.getLsbD i = decide (8 * j + i < s.inLen.toNat ∧ s.readByte .inBuf (8 * j + i) ≠ 0#8))

/-- `PDUENC.16` (`43_pdu_encode.md` R175): whole words, 127 at most, copied as they stand. -/
def Obligations.WriteRegistersCommand : Prop :=
  encode .pduenc16 = 0x5010#16 ∧ ∀ s : State, s.params.wf →
    (s.params.inCap < s.inLen.toNat ∨ s.inLen.toNat % 2 = 1 ∨ 255 < s.inLen.toNat →
      ∃ t, exec .pduenc16 s = .next t ∧ s.EndsIn t .arg) ∧
    (s.inLen.toNat ≤ s.params.inCap → s.inLen.toNat % 2 = 0 → s.inLen.toNat ≤ 255 →
      s.params.outCap < 6 + s.inLen.toNat → ∃ t, exec .pduenc16 s = .next t ∧ s.EndsIn t .overflow) ∧
    (s.inLen.toNat ≤ s.params.inCap → s.inLen.toNat % 2 = 0 → s.inLen.toNat ≤ 255 →
      6 + s.inLen.toNat ≤ s.params.outCap →
      ∃ t, exec .pduenc16 s = .next t ∧
        s.Delivers t { out := [0x10#8, BitVec.ofNat 8 (s.a0.toNat / 256), BitVec.ofNat 8 (s.a0.toNat % 256),
          0x00#8, BitVec.ofNat 8 (s.inLen.toNat / 2), BitVec.ofNat 8 s.inLen.toNat] ++ s.opnd })

/-- `PDUENC.20` (`43_pdu_encode.md` R177): 36 sub-requests of six bytes at most, each with its reference type. -/
def Obligations.ReadFileRecordCommand : Prop :=
  encode .pduenc20 = 0x5014#16 ∧ ∀ s : State, s.params.wf →
    (s.params.inCap < s.inLen.toNat ∨ s.inLen.toNat % 6 ≠ 0 ∨ 36 < s.inLen.toNat / 6 →
      ∃ t, exec .pduenc20 s = .next t ∧ s.EndsIn t .arg) ∧
    ∀ items : List (List Byte), (∀ x ∈ items, x.length = 6) → s.opnd = items.flatten →
      s.inLen.toNat ≤ s.params.inCap → items.length ≤ 36 →
      (s.params.outCap < 2 + 7 * items.length → ∃ t, exec .pduenc20 s = .next t ∧ s.EndsIn t .overflow) ∧
      (2 + 7 * items.length ≤ s.params.outCap →
        ∃ t, exec .pduenc20 s = .next t ∧
          s.Delivers t { out := [0x14#8, BitVec.ofNat 8 (7 * items.length)] ++
            (items.map fun x => 0x06#8 :: x).flatten })

/-- `PDUENC.21` (`43_pdu_encode.md` R178): the stream of a list of sub-requests becomes their PDU; a stream of none,
or one whose PDU needs a `total-length` above 255, is `Arg`. -/
def Obligations.WriteFileRecordCommand : Prop :=
  encode .pduenc21 = 0x5015#16 ∧ ∀ s : State, s.params.wf →
    (s.params.inCap < s.inLen.toNat ∨ (¬ ∃ subs, IsWriteStream s.opnd subs) →
      ∃ t, exec .pduenc21 s = .next t ∧ s.EndsIn t .arg) ∧
    ∀ subs, IsWriteStream s.opnd subs → s.inLen.toNat ≤ s.params.inCap →
      (255 < writeTotal s.params.wfrReclen subs → ∃ t, exec .pduenc21 s = .next t ∧ s.EndsIn t .arg) ∧
      (writeTotal s.params.wfrReclen subs ≤ 255 → s.params.outCap < 2 + writeTotal s.params.wfrReclen subs →
        ∃ t, exec .pduenc21 s = .next t ∧ s.EndsIn t .overflow) ∧
      (writeTotal s.params.wfrReclen subs ≤ 255 → 2 + writeTotal s.params.wfrReclen subs ≤ s.params.outCap →
        ∃ t, exec .pduenc21 s = .next t ∧
          s.Delivers t { out := [0x15#8, BitVec.ofNat 8 (writeTotal s.params.wfrReclen subs)] ++
            (subs.map fun u => [0x06#8] ++ be16 u.file ++ be16 u.record ++
              (if s.params.wfrReclen = .present then be16 u.count else []) ++ u.data).flatten })

/-- `PDUENC.22` and `PDUENC.24` (`43_pdu_encode.md` R179, R176). -/
def Obligations.MaskWriteAndFifoPdus : Prop :=
  encode .pduenc22 = 0x5016#16 ∧ encode .pduenc24 = 0x5018#16 ∧ ∀ s : State, s.params.wf →
    (∃ t, exec .pduenc22 s = .next t ∧
      s.Delivers t { out := [0x16#8, BitVec.ofNat 8 (s.a0.toNat / 256), BitVec.ofNat 8 (s.a0.toNat % 256),
        BitVec.ofNat 8 (s.a1.toNat / 256), BitVec.ofNat 8 (s.a1.toNat % 256),
        BitVec.ofNat 8 (s.a2.toNat / 256), BitVec.ofNat 8 (s.a2.toNat % 256)] }) ∧
    ∃ t, exec .pduenc24 s = .next t ∧
      s.Delivers t { out := [0x18#8, BitVec.ofNat 8 (s.a0.toNat / 256), BitVec.ofNat 8 (s.a0.toNat % 256)] }

/-- `PDUENC.23` (`43_pdu_encode.md` R172). -/
def Obligations.ReadWriteRegistersCommand : Prop :=
  encode .pduenc23 = 0x5017#16 ∧ ∀ s : State, s.params.wf →
    (s.params.inCap < s.inLen.toNat ∨ s.inLen.toNat % 2 = 1 ∨ 255 < s.inLen.toNat →
      ∃ t, exec .pduenc23 s = .next t ∧ s.EndsIn t .arg) ∧
    (s.inLen.toNat ≤ s.params.inCap → s.inLen.toNat % 2 = 0 → s.inLen.toNat ≤ 255 →
      s.params.outCap < 10 + s.inLen.toNat → ∃ t, exec .pduenc23 s = .next t ∧ s.EndsIn t .overflow) ∧
    (s.inLen.toNat ≤ s.params.inCap → s.inLen.toNat % 2 = 0 → s.inLen.toNat ≤ 255 →
      10 + s.inLen.toNat ≤ s.params.outCap →
      ∃ t, exec .pduenc23 s = .next t ∧
        s.Delivers t { out := [0x17#8, BitVec.ofNat 8 (s.a0.toNat / 256), BitVec.ofNat 8 (s.a0.toNat % 256),
          BitVec.ofNat 8 (s.a1.toNat / 256), BitVec.ofNat 8 (s.a1.toNat % 256),
          BitVec.ofNat 8 (s.a2.toNat / 256), BitVec.ofNat 8 (s.a2.toNat % 256),
          0x00#8, BitVec.ofNat 8 (s.inLen.toNat / 2), BitVec.ofNat 8 s.inLen.toNat] ++ s.opnd })

/-- `PDUENC.43` (`43_pdu_encode.md` R180). -/
def Obligations.ReadDeviceIdCommand : Prop :=
  encode .pduenc43 = 0x502B#16 ∧ ∀ s : State, s.params.wf →
    (255 < s.a0.toNat ∨ 255 < s.a1.toNat → ∃ t, exec .pduenc43 s = .next t ∧ s.EndsIn t .arg) ∧
    (s.a0.toNat ≤ 255 → s.a1.toNat ≤ 255 →
      ∃ t, exec .pduenc43 s = .next t ∧
        s.Delivers t { out := [0x2B#8, 0x0E#8, BitVec.ofNat 8 s.a0.toNat, BitVec.ofNat 8 s.a1.toNat] })

/-- `43_pdu_encode.md` R184, for the six list-taking commands. -/
def Obligations.EmptyListsAreLegal : Prop :=
  ∀ s : State, s.params.wf → 10 ≤ s.params.outCap → s.inLen = 0#16 →
    (∃ t, exec .pduenc8 s = .next t ∧
      s.Delivers t { out := [0x08#8, BitVec.ofNat 8 (s.a0.toNat / 256), BitVec.ofNat 8 (s.a0.toNat % 256)] }) ∧
    (∃ t, exec .pduenc15 s = .next t ∧ s.Delivers t { out := [0x0F#8, BitVec.ofNat 8 (s.a0.toNat / 256),
      BitVec.ofNat 8 (s.a0.toNat % 256), 0x00#8, 0x00#8, 0x00#8] }) ∧
    (∃ t, exec .pduenc16 s = .next t ∧ s.Delivers t { out := [0x10#8, BitVec.ofNat 8 (s.a0.toNat / 256),
      BitVec.ofNat 8 (s.a0.toNat % 256), 0x00#8, 0x00#8, 0x00#8] }) ∧
    (∃ t, exec .pduenc20 s = .next t ∧ s.Delivers t { out := [0x14#8, 0x00#8] }) ∧
    (∃ t, exec .pduenc21 s = .next t ∧ s.Delivers t { out := [0x15#8, 0x00#8] }) ∧
    ∃ t, exec .pduenc23 s = .next t ∧
      s.Delivers t { out := [0x17#8, BitVec.ofNat 8 (s.a0.toNat / 256), BitVec.ofNat 8 (s.a0.toNat % 256),
        BitVec.ofNat 8 (s.a1.toNat / 256), BitVec.ofNat 8 (s.a1.toNat % 256),
        BitVec.ofNat 8 (s.a2.toNat / 256), BitVec.ofNat 8 (s.a2.toNat % 256), 0x00#8, 0x00#8, 0x00#8] }

/-! ## Transfer -/

/-- `XFER` (`44_transfer.md` R200): the copy, what it leaves alone, the error, and that twice is the same as once. -/
def Obligations.XferCommand : Prop :=
  encode .xfer = 0x6000#16 ∧
  (∀ w : W16, w.toNat / 256 = 0x60 → w.toNat % 256 ≠ 0 → decode w = .illegal) ∧ ∀ s : State,
    (s.params.inCap < s.outLen.toNat → ∃ t, exec .xfer s = .next t ∧ s.EndsIn t .overflow) ∧
    (s.outLen.toNat ≤ s.params.inCap →
      ∃ t, exec .xfer s = .next t ∧ t.inLen = s.outLen ∧ t.status = 0x0000#16 ∧
        (∀ k, t.readByte .inBuf k = if k < s.outLen.toNat then s.readByte .outBuf k else s.readByte .inBuf k) ∧
        (∀ k, t.readByte .outBuf k = s.readByte .outBuf k) ∧
        t = { s with inMem := t.inMem, inLen := t.inLen, status := t.status } ∧
        ∃ u, exec .xfer t = .next u ∧ u.inLen = t.inLen ∧ u.result = t.result ∧
          ∀ k, u.readByte .inBuf k = t.readByte .inBuf k)

/-- `10_state.md` R11, R16, R18 and R24, the column "command write": no command but `XFER` changes `A[*]`, `CMD`,
`IN_LEN` or a byte of `IN`, and `XFER` changes of these only `IN_LEN` and `IN`. -/
def Obligations.OnlyXferWritesTheOperandBuffer : Prop :=
  ∀ (i : Instr) (s t : State), exec i s = .next t →
    (i ≠ .xfer → s.KeepsOperands t) ∧
    t.a0 = s.a0 ∧ t.a1 = s.a1 ∧ t.a2 = s.a2 ∧ t.a3 = s.a3 ∧ t.cmd = s.cmd ∧ t.params = s.params ∧
    t.pending = s.pending ∧ t.readBus = s.readBus

/-! ## Errors -/

/-- `60_exceptions.md` R254: the complete list of causes of `Arg`. -/
def Obligations.ArgExactlyForItsCauses : Prop :=
  ∀ (i : Instr) (s t : State), s.params.wf → exec i s = .next t → (t.err = 2#3 ↔ argCause i s)

/-- `60_exceptions.md` R255 (with R259: `Arg` comes first): the causes of `Framing`. -/
def Obligations.FramingExactlyForItsCauses : Prop :=
  ∀ (i : Instr) (s t : State), s.params.wf → exec i s = .next t →
    (t.err = 1#3 ↔ ¬ argCause i s ∧ framingCause i s)

/-- `60_exceptions.md` R259: the first error in the order `Arg`, `Framing`, `Overflow` is reported, and success only
where none applies; and R256: with equal capacities neither `DECF` nor, `OUT_LEN` being within `OUT_CAP`, `XFER` can
overflow. -/
def Obligations.ErrorsFollowThePriority : Prop :=
  ∀ (i : Instr) (s t : State), s.params.wf → exec i s = .next t →
    (argCause i s → t.err = 2#3) ∧
    (¬ argCause i s → framingCause i s → t.err = 1#3) ∧
    (¬ argCause i s → ¬ framingCause i s → overflowCause i s → t.err = 5#3) ∧
    (¬ argCause i s → ¬ framingCause i s → ¬ overflowCause i s → t.err = 0#3) ∧
    (s.params.inCap = s.params.outCap → s.outLen.toNat ≤ s.params.outCap →
      i = .decfRtu ∨ i = .decfAscii ∨ i = .xfer → t.err ≠ 5#3)

/-- `60_exceptions.md` R251: whichever command raises, `XFER` included, the error result and nothing else. -/
def Obligations.ErrorResultIsUniform : Prop :=
  ∀ (i : Instr) (s t : State), exec i s = .next t → t.err ≠ 0#3 →
    ∃ e, t.err = CmdError.code e ∧ s.EndsIn t e ∧ t.produced = []

/-! ## The whole machine -/

/-- `10_state.md` R10 and `30_encoding.md` R71: the result record of a command is a function of the sources R71 lists
for it and of the parameters; a register not listed is ignored, and nothing earlier matters. -/
def Obligations.ResultDependsOnlyOnListedSources : Prop :=
  ∀ (i : Instr) (s s' t t' : State), i ≠ .xfer → s.params.wf → s.params = s'.params →
    (∀ x ∈ sourcesOf i, s.sameSource s' x) → exec i s = .next t → exec i s' = .next t' →
    t.result = t'.result ∧ t.outLen = t'.outLen

/-- `20_memory.md` R49: issuing the same command twice with unchanged operands gives the same result record twice. -/
def Obligations.CommandsAreRepeatable : Prop :=
  ∀ (i : Instr) (s t : State), s.params.wf → exec i s = .next t →
    ∃ u, exec i t = .next u ∧ (i ≠ .xfer → u.result = t.result) ∧ (t.err = 0#3 → u.result = t.result)

/-- `41_frame_encode.md` R128 on the block: `ENCF.RTU` ; `XFER` ; `DECF.RTU` gives back the PDU and the address with a
good checksum, wherever the frame fits both buffers. -/
def Obligations.RtuFrameSurvivesTheBlock : Prop :=
  ∀ s : State, s.params.wf → s.inLen.toNat + 3 ≤ s.params.inCap → s.inLen.toNat + 3 ≤ s.params.outCap →
    s.a0.toNat ≤ 247 →
    ∃ t u v, exec .encfRtu s = .next t ∧ exec .xfer t = .next u ∧ exec .decfRtu u = .next v ∧
      v.status = 0x0008#16 ∧ v.produced = s.opnd ∧ v.r2 = s.a0 ∧ v.r0 = t.r0 ∧ v.r1 = t.r0

/-- The same for ASCII frames (`41_frame_encode.md` R128). -/
def Obligations.AsciiFrameSurvivesTheBlock : Prop :=
  ∀ s : State, s.params.wf → 2 * s.inLen.toNat + 7 ≤ s.params.inCap → 2 * s.inLen.toNat + 7 ≤ s.params.outCap →
    s.a0.toNat ≤ 247 →
    ∃ t u v, exec .encfAscii s = .next t ∧ exec .xfer t = .next u ∧ exec .decfAscii u = .next v ∧
      v.status = 0x0008#16 ∧ v.produced = s.opnd ∧ v.r2 = s.a0 ∧ v.r0 = t.r0 ∧ v.r1 = t.r0

/-- The tail of a request (`30_encoding.md` R76, `44_transfer.md` R200): whatever sequence stands in `OUT`, `XFER`,
the slave address into `A[0]`, and `ENCF` frame it. -/
def Obligations.TransferThenFrame : Prop :=
  ∀ (s : State) (addr : W16), s.params.wf → s.outLen.toNat ≤ s.params.inCap → addr.toNat ≤ 247 →
    (s.outLen.toNat + 3 ≤ s.params.outCap →
      ∃ u v, exec .xfer s = .next u ∧ exec .encfRtu { u with a0 := addr } = .next v ∧ v.status = 0x0000#16 ∧
        v.produced = encRtu (BitVec.ofNat 8 addr.toNat) s.produced) ∧
    (2 * s.outLen.toNat + 7 ≤ s.params.outCap →
      ∃ u v, exec .xfer s = .next u ∧ exec .encfAscii { u with a0 := addr } = .next v ∧ v.status = 0x0000#16 ∧
        v.produced = encAscii (BitVec.ofNat 8 addr.toNat) s.produced)

/-- `70_reset_and_hazards.md` R287: with `A[0]` not rewritten between `PDUENC` and `ENCF`, the data address is taken
for the slave address, or refused above 247. -/
def Obligations.ForgottenSlaveAddress : Prop :=
  ∀ s : State, s.params.wf → 8 ≤ s.params.outCap →
    ∃ t u v, exec .pduenc3 s = .next t ∧ exec .xfer t = .next u ∧ exec .encfRtu u = .next v ∧
      (s.a0.toNat ≤ 247 → v.status = 0x0000#16 ∧
        v.produced = encRtu (BitVec.ofNat 8 s.a0.toNat) [0x03#8, 0x00#8, BitVec.ofNat 8 s.a0.toNat,
          BitVec.ofNat 8 (s.a1.toNat / 256), BitVec.ofNat 8 (s.a1.toNat % 256)]) ∧
      (247 < s.a0.toNat → v.status = 0x0002#16 ∧ v.outLen = 0#16)
end

