-- ==== Sys2Proof/Laws/Memory.lean ====
section
/-! SUPPORT. The laws of a byte buffer: a read after a write, and that every operation keeps the canonical form. -/

namespace Sys2Proof.Machine

/-- A read after a write of one byte. -/
theorem Memory.read?_write (m : Memory) (i j : Nat) (v : Byte) :
    Memory.read? (Memory.write m i v) j = if j = i then some v else Memory.read? m j := by
  induction m with
  | nil => simp [Memory.write, Memory.read?, eq_comm]
  | cons c m ih =>
    obtain ⟨a, b⟩ := c
    simp only [Memory.write]
    split
    · by_cases h : j = i
      · simp [Memory.read?, h]
      · simp [Memory.read?, h, Ne.symm h]
    · split
      · rename_i h
        subst h
        by_cases h : j = i
        · simp [Memory.read?, h]
        · simp [Memory.read?, h, Ne.symm h]
      · simp only [Memory.read?, ih]
        by_cases h : a = j
        · subst h
          have : a ≠ i := by omega
          simp [this]
        · simp [h]

/-- A read after a write of a sequence (`20_memory.md` R42). -/
theorem Memory.read?_writeSeq (S : List Byte) (m : Memory) (i j : Nat) :
    Memory.read? (Memory.writeSeq m i S) j =
      if i ≤ j ∧ j < i + S.length then S[j - i]? else Memory.read? m j := by
  induction S generalizing m i with
  | nil => simp [Memory.writeSeq]
  | cons b S ih =>
    simp only [Memory.writeSeq, ih, Memory.read?_write, List.length_cons]
    by_cases h : j = i
    · subst h; simp
    · by_cases h2 : i + 1 ≤ j ∧ j < i + 1 + S.length
      · obtain ⟨k, rfl⟩ : ∃ k, j = i + 1 + k := ⟨j - (i + 1), by omega⟩
        have h3 : i + 1 + k - i = k + 1 := by omega
        have h4 : i ≤ i + 1 + k ∧ i + 1 + k < i + (S.length + 1) := by omega
        simp only [h2, h4, h3, and_self, if_true]
        simp
      · have h5 : ¬ (i ≤ j ∧ j < i + (S.length + 1)) := by omega
        simp only [if_neg h2, if_neg h5, if_neg h]

/-- The entries after a write: the old ones and the one written. -/
theorem Memory.mem_write {m : Memory} {i : Nat} {v : Byte} {c : Host.Cell}
    (h : c ∈ Memory.write m i v) : c ∈ m ∨ c = (i, v) := by
  induction m with
  | nil => simpa [Memory.write] using h
  | cons d m ih =>
    obtain ⟨a, b⟩ := d
    simp only [Memory.write] at h
    split at h
    · simp only [List.mem_cons] at h ⊢; tauto
    · split at h
      · simp only [List.mem_cons] at h ⊢; tauto
      · simp only [List.mem_cons] at h ⊢
        rcases h with h | h
        · tauto
        · rcases ih h with h | h <;> tauto

/-- The entries after a write of a sequence. -/
theorem Memory.mem_writeSeq {S : List Byte} {m : Memory} {i : Nat} {c : Host.Cell}
    (h : c ∈ Memory.writeSeq m i S) : c ∈ m ∨ (i ≤ c.1 ∧ c.1 < i + S.length) := by
  induction S generalizing m i with
  | nil => exact .inl h
  | cons b S ih =>
    rcases ih h with h | h
    · rcases Memory.mem_write h with h | h
      · exact .inl h
      · subst h; simp
    · simp only [List.length_cons]; omega

/-- A write keeps the canonical form. -/
theorem Memory.wf_write {m : Memory} (h : Memory.wf m) (i : Nat) (v : Byte) : Memory.wf (Memory.write m i v) := by
  induction m with
  | nil => simp [Memory.write, Memory.wf]
  | cons d m ih =>
    obtain ⟨a, b⟩ := d
    simp only [Memory.wf, List.map_cons, List.pairwise_cons, List.mem_map, forall_exists_index, and_imp,
      forall_apply_eq_imp_iff₂] at h ih
    simp only [Memory.write]
    split
    · rename_i hi
      simp only [Memory.wf, List.map_cons, List.pairwise_cons, List.mem_cons, List.mem_map]
      refine ⟨?_, ?_, h.2⟩
      · rintro x (rfl | ⟨c, hc, rfl⟩)
        · exact hi
        · exact hi.trans (h.1 c hc)
      · rintro x ⟨c, hc, rfl⟩
        exact h.1 c hc
    · split
      · rename_i hi
        subst hi
        simpa [Memory.wf] using h
      · simp only [Memory.wf, List.map_cons, List.pairwise_cons, List.mem_map]
        refine ⟨?_, ih h.2⟩
        rintro x ⟨c, hc, rfl⟩
        rcases Memory.mem_write hc with hc | hc
        · exact h.1 c hc
        · subst hc; simp only; omega

/-- A write of a sequence keeps the canonical form. -/
theorem Memory.wf_writeSeq {m : Memory} (h : Memory.wf m) (i : Nat) (S : List Byte) :
    Memory.wf (Memory.writeSeq m i S) := by
  induction S generalizing m i with
  | nil => exact h
  | cons b S ih => exact ih (Memory.wf_write h i b) (i + 1)

/-- A write past every entry appends. -/
theorem Memory.write_past {m : Memory} {i : Nat} (h : ∀ c ∈ m, c.1 < i) (v : Byte) :
    Memory.write m i v = m ++ [(i, v)] := by
  induction m with
  | nil => rfl
  | cons d m ih =>
    obtain ⟨a, b⟩ := d
    have ha : a < i := h (a, b) (by simp)
    simp only [Memory.write, List.cons_append]
    rw [if_neg (by omega), if_neg (by omega), ih fun c hc => h c (by simp [hc])]

/-- A sequence written past every entry lists consecutive indices. -/
theorem Memory.keys_writeSeq_past (S : List Byte) {m : Memory} {i : Nat} (h : ∀ c ∈ m, c.1 < i) :
    (Memory.writeSeq m i S).map Prod.fst = m.map Prod.fst ++ List.range' i S.length := by
  induction S generalizing m i with
  | nil => simp [Memory.writeSeq]
  | cons b S ih =>
    simp only [Memory.writeSeq]
    rw [Memory.write_past h, ih]
    · simp [List.range'_succ]
    · intro c hc
      simp only [List.mem_append, List.mem_singleton] at hc
      rcases hc with hc | rfl
      · exact (h c hc).trans (by omega)
      · simp

/-- A sequence written to a buffer with nothing listed lists exactly the indices below its length. -/
theorem Memory.keys_writeSeq_nil (S : List Byte) :
    (Memory.writeSeq [] 0 S).map Prod.fst = List.range S.length := by
  rw [Memory.keys_writeSeq_past S (by simp), List.range_eq_range']
  rfl

end Sys2Proof.Machine
end

