-- ==== Sys2Proof/Laws/State.lean ====
section
/-! SUPPORT. One lemma per field of State per update, each true by rfl. -/

namespace Sys2Proof.Machine

variable (s : State)

@[simp] theorem State.setCmd_a0 (w : W16) : (s.setCmd w).a0 = s.a0 := rfl
@[simp] theorem State.setCmd_a1 (w : W16) : (s.setCmd w).a1 = s.a1 := rfl
@[simp] theorem State.setCmd_a2 (w : W16) : (s.setCmd w).a2 = s.a2 := rfl
@[simp] theorem State.setCmd_a3 (w : W16) : (s.setCmd w).a3 = s.a3 := rfl
@[simp] theorem State.setCmd_r0 (w : W16) : (s.setCmd w).r0 = s.r0 := rfl
@[simp] theorem State.setCmd_r1 (w : W16) : (s.setCmd w).r1 = s.r1 := rfl
@[simp] theorem State.setCmd_r2 (w : W16) : (s.setCmd w).r2 = s.r2 := rfl
@[simp] theorem State.setCmd_cmd (w : W16) : (s.setCmd w).cmd = w := rfl
@[simp] theorem State.setCmd_status (w : W16) : (s.setCmd w).status = s.status := rfl
@[simp] theorem State.setCmd_inLen (w : W16) : (s.setCmd w).inLen = s.inLen := rfl
@[simp] theorem State.setCmd_outLen (w : W16) : (s.setCmd w).outLen = s.outLen := rfl
@[simp] theorem State.setCmd_inMem (w : W16) : (s.setCmd w).inMem = s.inMem := rfl
@[simp] theorem State.setCmd_outMem (w : W16) : (s.setCmd w).outMem = s.outMem := rfl
@[simp] theorem State.setCmd_params (w : W16) : (s.setCmd w).params = s.params := rfl
@[simp] theorem State.setCmd_pending (w : W16) : (s.setCmd w).pending = s.pending := rfl
@[simp] theorem State.setCmd_readBus (w : W16) : (s.setCmd w).readBus = s.readBus := rfl
@[simp] theorem State.setCmd_inEpoch (w : W16) : (s.setCmd w).inEpoch = s.inEpoch := rfl
@[simp] theorem State.setCmd_outEpoch (w : W16) : (s.setCmd w).outEpoch = s.outEpoch := rfl

@[simp] theorem State.setPending_a0 (l : List HostAction) : (s.setPending l).a0 = s.a0 := rfl
@[simp] theorem State.setPending_a1 (l : List HostAction) : (s.setPending l).a1 = s.a1 := rfl
@[simp] theorem State.setPending_a2 (l : List HostAction) : (s.setPending l).a2 = s.a2 := rfl
@[simp] theorem State.setPending_a3 (l : List HostAction) : (s.setPending l).a3 = s.a3 := rfl
@[simp] theorem State.setPending_r0 (l : List HostAction) : (s.setPending l).r0 = s.r0 := rfl
@[simp] theorem State.setPending_r1 (l : List HostAction) : (s.setPending l).r1 = s.r1 := rfl
@[simp] theorem State.setPending_r2 (l : List HostAction) : (s.setPending l).r2 = s.r2 := rfl
@[simp] theorem State.setPending_cmd (l : List HostAction) : (s.setPending l).cmd = s.cmd := rfl
@[simp] theorem State.setPending_status (l : List HostAction) : (s.setPending l).status = s.status := rfl
@[simp] theorem State.setPending_inLen (l : List HostAction) : (s.setPending l).inLen = s.inLen := rfl
@[simp] theorem State.setPending_outLen (l : List HostAction) : (s.setPending l).outLen = s.outLen := rfl
@[simp] theorem State.setPending_inMem (l : List HostAction) : (s.setPending l).inMem = s.inMem := rfl
@[simp] theorem State.setPending_outMem (l : List HostAction) : (s.setPending l).outMem = s.outMem := rfl
@[simp] theorem State.setPending_params (l : List HostAction) : (s.setPending l).params = s.params := rfl
@[simp] theorem State.setPending_pending (l : List HostAction) : (s.setPending l).pending = l := rfl
@[simp] theorem State.setPending_readBus (l : List HostAction) : (s.setPending l).readBus = s.readBus := rfl
@[simp] theorem State.setPending_inEpoch (l : List HostAction) : (s.setPending l).inEpoch = s.inEpoch := rfl
@[simp] theorem State.setPending_outEpoch (l : List HostAction) : (s.setPending l).outEpoch = s.outEpoch := rfl

@[simp] theorem State.raise_a0 (e : CmdError) : (s.raise e).a0 = s.a0 := rfl
@[simp] theorem State.raise_a1 (e : CmdError) : (s.raise e).a1 = s.a1 := rfl
@[simp] theorem State.raise_a2 (e : CmdError) : (s.raise e).a2 = s.a2 := rfl
@[simp] theorem State.raise_a3 (e : CmdError) : (s.raise e).a3 = s.a3 := rfl
@[simp] theorem State.raise_r0 (e : CmdError) : (s.raise e).r0 = 0#16 := rfl
@[simp] theorem State.raise_r1 (e : CmdError) : (s.raise e).r1 = 0#16 := rfl
@[simp] theorem State.raise_r2 (e : CmdError) : (s.raise e).r2 = 0#16 := rfl
@[simp] theorem State.raise_cmd (e : CmdError) : (s.raise e).cmd = s.cmd := rfl
@[simp] theorem State.raise_status (e : CmdError) : (s.raise e).status = statusError e := rfl
@[simp] theorem State.raise_inLen (e : CmdError) : (s.raise e).inLen = s.inLen := rfl
@[simp] theorem State.raise_outLen (e : CmdError) : (s.raise e).outLen = 0#16 := rfl
@[simp] theorem State.raise_inMem (e : CmdError) : (s.raise e).inMem = s.inMem := rfl
@[simp] theorem State.raise_outMem (e : CmdError) : (s.raise e).outMem = [] := rfl
@[simp] theorem State.raise_params (e : CmdError) : (s.raise e).params = s.params := rfl
@[simp] theorem State.raise_pending (e : CmdError) : (s.raise e).pending = s.pending := rfl
@[simp] theorem State.raise_readBus (e : CmdError) : (s.raise e).readBus = s.readBus := rfl
@[simp] theorem State.raise_inEpoch (e : CmdError) : (s.raise e).inEpoch = s.inEpoch := rfl
@[simp] theorem State.raise_outEpoch (e : CmdError) : (s.raise e).outEpoch = s.outEpoch + 1 := rfl

@[simp] theorem State.deliver_a0 (r : ResultRecord) : (s.deliver r).a0 = s.a0 := rfl
@[simp] theorem State.deliver_a1 (r : ResultRecord) : (s.deliver r).a1 = s.a1 := rfl
@[simp] theorem State.deliver_a2 (r : ResultRecord) : (s.deliver r).a2 = s.a2 := rfl
@[simp] theorem State.deliver_a3 (r : ResultRecord) : (s.deliver r).a3 = s.a3 := rfl
@[simp] theorem State.deliver_r0 (r : ResultRecord) : (s.deliver r).r0 = r.r0 := rfl
@[simp] theorem State.deliver_r1 (r : ResultRecord) : (s.deliver r).r1 = r.r1 := rfl
@[simp] theorem State.deliver_r2 (r : ResultRecord) : (s.deliver r).r2 = r.r2 := rfl
@[simp] theorem State.deliver_cmd (r : ResultRecord) : (s.deliver r).cmd = s.cmd := rfl
@[simp] theorem State.deliver_status (r : ResultRecord) : (s.deliver r).status = r.status := rfl
@[simp] theorem State.deliver_inLen (r : ResultRecord) : (s.deliver r).inLen = s.inLen := rfl
@[simp] theorem State.deliver_outLen (r : ResultRecord) : (s.deliver r).outLen = BitVec.ofNat 16 r.out.length := rfl
@[simp] theorem State.deliver_inMem (r : ResultRecord) : (s.deliver r).inMem = s.inMem := rfl
@[simp] theorem State.deliver_outMem (r : ResultRecord) : (s.deliver r).outMem = Memory.writeSeq [] 0 r.out := rfl
@[simp] theorem State.deliver_params (r : ResultRecord) : (s.deliver r).params = s.params := rfl
@[simp] theorem State.deliver_pending (r : ResultRecord) : (s.deliver r).pending = s.pending := rfl
@[simp] theorem State.deliver_readBus (r : ResultRecord) : (s.deliver r).readBus = s.readBus := rfl
@[simp] theorem State.deliver_inEpoch (r : ResultRecord) : (s.deliver r).inEpoch = s.inEpoch := rfl
@[simp] theorem State.deliver_outEpoch (r : ResultRecord) : (s.deliver r).outEpoch = s.outEpoch + 1 := rfl

@[simp] theorem State.transfer_a0 : (s.transfer).a0 = s.a0 := rfl
@[simp] theorem State.transfer_a1 : (s.transfer).a1 = s.a1 := rfl
@[simp] theorem State.transfer_a2 : (s.transfer).a2 = s.a2 := rfl
@[simp] theorem State.transfer_a3 : (s.transfer).a3 = s.a3 := rfl
@[simp] theorem State.transfer_r0 : (s.transfer).r0 = s.r0 := rfl
@[simp] theorem State.transfer_r1 : (s.transfer).r1 = s.r1 := rfl
@[simp] theorem State.transfer_r2 : (s.transfer).r2 = s.r2 := rfl
@[simp] theorem State.transfer_cmd : (s.transfer).cmd = s.cmd := rfl
@[simp] theorem State.transfer_status : (s.transfer).status = statusSuccess := rfl
@[simp] theorem State.transfer_inLen : (s.transfer).inLen = s.outLen := rfl
@[simp] theorem State.transfer_outLen : (s.transfer).outLen = s.outLen := rfl
@[simp] theorem State.transfer_inMem : (s.transfer).inMem = Memory.writeSeq s.inMem 0 s.produced := rfl
@[simp] theorem State.transfer_outMem : (s.transfer).outMem = s.outMem := rfl
@[simp] theorem State.transfer_params : (s.transfer).params = s.params := rfl
@[simp] theorem State.transfer_pending : (s.transfer).pending = s.pending := rfl
@[simp] theorem State.transfer_readBus : (s.transfer).readBus = s.readBus := rfl
@[simp] theorem State.transfer_inEpoch : (s.transfer).inEpoch = s.inEpoch := rfl
@[simp] theorem State.transfer_outEpoch : (s.transfer).outEpoch = s.outEpoch := rfl

@[simp] theorem State.resetEvent_a0 : (s.resetEvent).a0 = 0#16 := rfl
@[simp] theorem State.resetEvent_a1 : (s.resetEvent).a1 = 0#16 := rfl
@[simp] theorem State.resetEvent_a2 : (s.resetEvent).a2 = 0#16 := rfl
@[simp] theorem State.resetEvent_a3 : (s.resetEvent).a3 = 0#16 := rfl
@[simp] theorem State.resetEvent_r0 : (s.resetEvent).r0 = 0#16 := rfl
@[simp] theorem State.resetEvent_r1 : (s.resetEvent).r1 = 0#16 := rfl
@[simp] theorem State.resetEvent_r2 : (s.resetEvent).r2 = 0#16 := rfl
@[simp] theorem State.resetEvent_cmd : (s.resetEvent).cmd = 0#16 := rfl
@[simp] theorem State.resetEvent_status : (s.resetEvent).status = 0#16 := rfl
@[simp] theorem State.resetEvent_inLen : (s.resetEvent).inLen = 0#16 := rfl
@[simp] theorem State.resetEvent_outLen : (s.resetEvent).outLen = 0#16 := rfl
@[simp] theorem State.resetEvent_inMem : (s.resetEvent).inMem = [] := rfl
@[simp] theorem State.resetEvent_outMem : (s.resetEvent).outMem = [] := rfl
@[simp] theorem State.resetEvent_params : (s.resetEvent).params = s.params := rfl
@[simp] theorem State.resetEvent_pending : (s.resetEvent).pending = s.pending := rfl
@[simp] theorem State.resetEvent_readBus : (s.resetEvent).readBus = s.readBus := rfl
@[simp] theorem State.resetEvent_inEpoch : (s.resetEvent).inEpoch = s.inEpoch + 1 := rfl
@[simp] theorem State.resetEvent_outEpoch : (s.resetEvent).outEpoch = s.outEpoch + 1 := rfl

end Sys2Proof.Machine
end

