-- ==== Sys2Proof/Laws/Ops.lean ====
section
/-! SUPPORT. What each shared operation can do, said once, and what every command can leave. -/

namespace Sys2Proof.Machine

/-! ## Reading a buffer -/

@[simp] theorem State.memRead_length (s : State) (b : Buffer) (i n : Nat) : (s.memRead b i n).length = n := by
  simp [State.memRead]

@[simp] theorem State.opnd_length (s : State) : s.opnd.length = s.inLen.toNat := by simp [State.opnd]

@[simp] theorem State.produced_length (s : State) : s.produced.length = s.outLen.toNat := by simp [State.produced]

/-- Byte `k` of the operand stream is `IN[k]`. -/
theorem State.opnd_getElem? (s : State) (k : Nat) :
    s.opnd[k]? = if k < s.inLen.toNat then some (s.readByte .inBuf k) else none := by
  simp only [State.opnd, State.memRead, List.getElem?_map, Nat.zero_add]
  by_cases h : k < s.inLen.toNat
  · simp [h]
  · simp [h]

/-- Byte `k` of the produced sequence is `OUT[k]`. -/
theorem State.produced_getElem? (s : State) (k : Nat) :
    s.produced[k]? = if k < s.outLen.toNat then some (s.readByte .outBuf k) else none := by
  simp only [State.produced, State.memRead, List.getElem?_map, Nat.zero_add]
  by_cases h : k < s.outLen.toNat
  · simp [h]
  · simp [h]

/-- The operand stream depends only on `IN_LEN` and the bytes below it. -/
theorem State.opnd_congr {s t : State} (hl : t.inLen = s.inLen)
    (h : ∀ k < s.inLen.toNat, t.readByte .inBuf k = s.readByte .inBuf k) : t.opnd = s.opnd := by
  apply List.ext_getElem?
  intro k
  rw [State.opnd_getElem?, State.opnd_getElem?, hl]
  split
  · rw [h k ‹_›]
  · rfl

theorem State.readByte_congr {s t : State} {b : Buffer} (hm : t.mem b = s.mem b) (he : t.epoch b = s.epoch b)
    (i : Nat) : t.readByte b i = s.readByte b i := by
  simp [State.readByte, hm, he]

@[simp] theorem State.raise_readIn (s : State) (e : CmdError) (i : Nat) :
    (s.raise e).readByte .inBuf i = s.readByte .inBuf i := rfl

@[simp] theorem State.deliver_readIn (s : State) (r : ResultRecord) (i : Nat) :
    (s.deliver r).readByte .inBuf i = s.readByte .inBuf i := rfl

@[simp] theorem State.setCmd_readByte (s : State) (w : W16) (b : Buffer) (i : Nat) :
    (s.setCmd w).readByte b i = s.readByte b i := by cases b <;> rfl

@[simp] theorem State.setPending_readByte (s : State) (l : List HostAction) (b : Buffer) (i : Nat) :
    (s.setPending l).readByte b i = s.readByte b i := by cases b <;> rfl

@[simp] theorem State.transfer_readOut (s : State) (i : Nat) :
    s.transfer.readByte .outBuf i = s.readByte .outBuf i := rfl

/-- `IN` after a successful `XFER` (`44_transfer.md` R200). -/
theorem State.transfer_readIn (s : State) (k : Nat) :
    s.transfer.readByte .inBuf k = if k < s.outLen.toNat then s.readByte .outBuf k else s.readByte .inBuf k := by
  have h : s.transfer.readByte .inBuf k =
      (Memory.read? (Memory.writeSeq s.inMem 0 s.produced) k).getD (Config.unspecifiedByte .inBuf s.inEpoch k) := rfl
  rw [h, Memory.read?_writeSeq]
  by_cases hk : k < s.outLen.toNat
  · have hp : k < 0 + s.produced.length := by simpa using hk
    rw [if_pos ⟨Nat.zero_le k, hp⟩, if_pos hk, Nat.sub_zero, State.produced_getElem?, if_pos hk, Option.getD_some]
  · simp only [hk, State.produced_length, Nat.zero_add, and_false, if_false]
    rfl

/-- The operand stream after a successful `XFER` is what stood in `OUT`. -/
theorem State.transfer_opnd (s : State) : s.transfer.opnd = s.produced := by
  apply List.ext_getElem?
  intro k
  rw [State.opnd_getElem?, State.produced_getElem?, State.transfer_inLen, State.transfer_readIn]
  split <;> simp_all

/-- The produced sequence after a delivery. -/
theorem State.deliver_produced (s : State) (r : ResultRecord) (h : r.out.length < 65536) :
    (s.deliver r).produced = r.out := by
  apply List.ext_getElem?
  intro k
  have hl : (BitVec.ofNat 16 r.out.length).toNat = r.out.length := by simp; omega
  have hr : (s.deliver r).readByte .outBuf k =
      (Memory.read? (Memory.writeSeq [] 0 r.out) k).getD (Config.unspecifiedByte .outBuf (s.outEpoch + 1) k) := rfl
  rw [State.produced_getElem?, State.deliver_outLen, hl, hr, Memory.read?_writeSeq]
  by_cases hk : k < r.out.length
  · simp [hk]
  · simp [hk]

/-! ## The two ends of a command -/

/-- Every error result is that of `60_exceptions.md` R251. -/
theorem State.raise_endsIn (s : State) (e : CmdError) : s.EndsIn (s.raise e) e where
  status := rfl
  outLen := rfl
  r0 := rfl
  r1 := rfl
  r2 := rfl
  keeps := ⟨rfl, rfl, rfl, rfl, rfl, rfl, fun _ => rfl, rfl, rfl, rfl⟩

/-- A delivery leaves the result record and the operands. -/
theorem State.deliver_delivers (s : State) (r : ResultRecord) (h : r.out.length < 65536) :
    s.Delivers (s.deliver r) r where
  result := by simp [State.result, State.deliver_produced s r h]
  outLen := by simp; omega
  keeps := ⟨rfl, rfl, rfl, rfl, rfl, rfl, fun _ => rfl, rfl, rfl, rfl⟩

theorem State.raise_produced (s : State) (e : CmdError) : (s.raise e).produced = [] := rfl

/-- What `complete` can do: the error found, `Overflow` where the sequence does not fit, or the delivery. -/
theorem State.complete_cases (s : State) (c : Except CmdError ResultRecord) :
    (∃ e, c = .error e ∧ s.complete c = s.raise e) ∨
    (∃ r, c = .ok r ∧ s.params.outCap < r.out.length ∧ s.complete c = s.raise .overflow) ∨
    (∃ r, c = .ok r ∧ r.out.length ≤ s.params.outCap ∧ s.complete c = s.deliver r) := by
  cases c with
  | error e => exact .inl ⟨e, rfl, rfl⟩
  | ok r =>
    by_cases h : s.params.outCap < r.out.length
    · exact .inr (.inl ⟨r, rfl, h, if_pos h⟩)
    · exact .inr (.inr ⟨r, rfl, by omega, if_neg h⟩)

theorem State.complete_error (s : State) (e : CmdError) : s.complete (.error e) = s.raise e := rfl

theorem State.complete_overflow (s : State) {r : ResultRecord} (h : s.params.outCap < r.out.length) :
    s.complete (.ok r) = s.raise .overflow := if_pos h

theorem State.complete_ok (s : State) {r : ResultRecord} (h : r.out.length ≤ s.params.outCap) :
    s.complete (.ok r) = s.deliver r := if_neg (by omega)

theorem State.withOpnd_arg (s : State) {k} (h : s.params.inCap < s.inLen.toNat) :
    s.withOpnd k = .error .arg := if_pos h

theorem State.withOpnd_ok (s : State) {k} (h : s.inLen.toNat ≤ s.params.inCap) :
    s.withOpnd k = k s.opnd := if_neg (by omega)

/-! ## The records commands deliver -/

/-- The values of `STATUS` a successful command writes (`10_state.md` R15): no error, at most one checksum flag. -/
def ResultRecord.Successful (r : ResultRecord) : Prop := r.status = 0#16 ∨ r.status = 8#16 ∨ r.status = 16#16

/-- Everything a command's own checks can answer: an error, or a successful record. -/
def AnswersSuccessfully (c : Except CmdError ResultRecord) : Prop := ∀ r, c = .ok r → r.Successful

theorem answers_error (e : CmdError) : AnswersSuccessfully (.error e) := fun _ h => by cases h

theorem answers_ok {r : ResultRecord} (h : r.status = statusSuccess) : AnswersSuccessfully (.ok r) := by
  rintro _ ⟨⟩; exact .inl h

theorem answers_ite {c : Prop} [Decidable c] {x y : Except CmdError ResultRecord} (hx : AnswersSuccessfully x)
    (hy : AnswersSuccessfully y) : AnswersSuccessfully (if c then x else y) := by
  split <;> assumption

theorem answers_withOpnd {s : State} {k} (h : ∀ B, AnswersSuccessfully (k B)) : AnswersSuccessfully (s.withOpnd k) :=
  answers_ite (answers_error _) (h _)

theorem answers_pdu (pdu : List Byte) : AnswersSuccessfully (pduResult pdu) := answers_ok rfl

theorem answers_words (B : List Byte) {r : Except CmdError ResultRecord} (h : AnswersSuccessfully r) :
    AnswersSuccessfully (withWords B r) :=
  answers_ite (answers_error _) (answers_ite (answers_error _) h)

theorem answers_decoded {w : Nat} (widen : BitVec w → W16) (d : Option (DecodedFrame w)) :
    AnswersSuccessfully (decodedResult widen d) := by
  cases d with
  | none => exact answers_error _
  | some d =>
    rintro _ ⟨⟩
    show statusDecoded d.ok = _ ∨ statusDecoded d.ok = _ ∨ statusDecoded d.ok = _
    cases d.ok <;> decide

/-- Every command but `XFER` ends in `complete`, of an error or of a successful record. -/
theorem exec_answers {i : Instr} (h : i ≠ .xfer) (s : State) :
    ∃ c, exec i s = .next (s.complete c) ∧ AnswersSuccessfully c := by
  cases i
  case xfer => exact absurd rfl h
  case crc16 => exact ⟨_, rfl, answers_withOpnd fun _ => answers_ok rfl⟩
  case lrc8 => exact ⟨_, rfl, answers_withOpnd fun _ => answers_ok rfl⟩
  case encfRtu => exact ⟨_, rfl, answers_withOpnd fun _ => answers_ite (answers_error _) (answers_ok rfl)⟩
  case encfAscii => exact ⟨_, rfl, answers_withOpnd fun _ => answers_ite (answers_error _) (answers_ok rfl)⟩
  case decfRtu => exact ⟨_, rfl, answers_withOpnd fun _ => answers_decoded _ _⟩
  case decfAscii => exact ⟨_, rfl, answers_withOpnd fun _ => answers_decoded _ _⟩
  case pduenc8 => exact ⟨_, rfl, answers_withOpnd fun _ => answers_pdu _⟩
  case pduenc15 => exact ⟨_, rfl, answers_withOpnd fun _ => answers_ite (answers_error _) (answers_pdu _)⟩
  case pduenc16 => exact ⟨_, rfl, answers_withOpnd fun B => answers_words B (answers_pdu _)⟩
  case pduenc20 =>
    exact ⟨_, rfl, answers_withOpnd fun _ =>
      answers_ite (answers_error _) (answers_ite (answers_error _) (answers_pdu _))⟩
  case pduenc21 =>
    refine ⟨_, rfl, answers_withOpnd fun B => ?_⟩
    split
    · exact answers_error _
    · exact answers_ite (answers_error _) (answers_pdu _)
  case pduenc23 => exact ⟨_, rfl, answers_withOpnd fun B => answers_words B (answers_pdu _)⟩
  case pduenc43 => exact ⟨_, rfl, answers_ite (answers_error _) (answers_pdu _)⟩
  all_goals exact ⟨_, rfl, answers_pdu _⟩

/-- What a command can leave: an error result, a delivery of a successful record that fits, or (`XFER`) the transfer. -/
theorem exec_cases {i : Instr} {s t : State} (h : exec i s = .next t) :
    (∃ e, t = s.raise e) ∨
    (∃ r, r.Successful ∧ r.out.length ≤ s.params.outCap ∧ t = s.deliver r ∧ i ≠ .xfer) ∨
    (i = .xfer ∧ s.outLen.toNat ≤ s.params.inCap ∧ t = s.transfer) := by
  by_cases hx : i = .xfer
  · subst hx
    simp only [exec, execXfer, Host.Outcome.next.injEq] at h
    split at h
    · exact .inl ⟨_, h.symm⟩
    · exact .inr (.inr ⟨rfl, by omega, h.symm⟩)
  · obtain ⟨c, hc, hr⟩ := exec_answers hx s
    rw [hc, Host.Outcome.next.injEq] at h
    rcases s.complete_cases c with ⟨e, -, h'⟩ | ⟨r, -, -, h'⟩ | ⟨r, h1, h2, h'⟩
    · exact .inl ⟨e, by rw [← h, h']⟩
    · exact .inl ⟨_, by rw [← h, h']⟩
    · exact .inr (.inl ⟨r, hr r h1, h2, by rw [← h, h'], hx⟩)

/-- Every command answers a next state. -/
theorem exec_next (i : Instr) (s : State) : ∃ t, exec i s = .next t := by cases i <;> exact ⟨_, rfl⟩

/-- Issuing any word answers a next state. -/
theorem issue_next (w : W16) (s : State) : ∃ t, issue w s = .next t := by
  unfold issue
  split
  · exact exec_next _ _
  · exact ⟨_, rfl⟩
  · exact ⟨_, rfl⟩

/-! ## The ends of a command, in the form statements use -/

/-- A record that fits is delivered. -/
theorem complete_delivers {s : State} {r : ResultRecord} (hw : s.params.wf) (h : r.out.length ≤ s.params.outCap) :
    ∃ t, (Host.Outcome.next (s.complete (.ok r)) : Host.Outcome State Fault Refusal) = .next t ∧ s.Delivers t r :=
  ⟨_, rfl, by rw [s.complete_ok h]; exact State.deliver_delivers s r (by have := hw.2.2; omega)⟩

/-- An error found ends the command. -/
theorem complete_endsIn {s : State} {e : CmdError} :
    ∃ t, (Host.Outcome.next (s.complete (.error e)) : Host.Outcome State Fault Refusal) = .next t ∧ s.EndsIn t e :=
  ⟨_, rfl, State.raise_endsIn s e⟩

/-- A record that does not fit ends in `Overflow`. -/
theorem complete_overflows {s : State} {r : ResultRecord} (h : s.params.outCap < r.out.length) :
    ∃ t, (Host.Outcome.next (s.complete (.ok r)) : Host.Outcome State Fault Refusal) = .next t ∧ s.EndsIn t .overflow :=
  ⟨_, rfl, by rw [s.complete_overflow h]; exact State.raise_endsIn s _⟩

/-- The error code after an error. -/
theorem State.raise_err (s : State) (e : CmdError) : (s.raise e).err = e.code := by cases e <;> rfl

/-- What a command reads through `withOpnd` depends only on the operand stream. -/
theorem State.withOpnd_congr {s s' : State} (hp : s.params = s'.params) (h : s.sameSource s' .stream)
    (k : List Byte → Except CmdError ResultRecord) : s.withOpnd k = s'.withOpnd k := by
  obtain ⟨hl, hb⟩ := h
  simp only [State.withOpnd, ← hp, ← hl]
  split
  · rfl
  · rw [State.opnd_congr (s := s') (t := s) hl]
    intro k hk
    exact hb (by omega) k (hl ▸ hk)

end Sys2Proof.Machine
end

