-- ==== Sys2Proof/Laws/Streams.lean ====
section
/-! SUPPORT. Byte order and operand streams: what the helpers of `Bits` and `Operands` compute, in plain numbers. -/

namespace Sys2Proof.Machine

/-- `lo8` as a number. -/
theorem lo8_ofNat (w : W16) : BitVec.ofNat 8 (w.toNat % 256) = lo8 w := by
  apply BitVec.eq_of_toNat_eq; simp [lo8]

/-- `hi8` as a number. -/
theorem hi8_ofNat (w : W16) : BitVec.ofNat 8 (w.toNat / 256) = hi8 w := by
  apply BitVec.eq_of_toNat_eq; simp [hi8, Nat.shiftRight_eq_div_pow]

/-- The low byte, without the remainder written out. -/
theorem lo8_ofNat_toNat (w : W16) : BitVec.ofNat 8 w.toNat = lo8 w := by
  apply BitVec.eq_of_toNat_eq; simp [lo8]

/-- `be16` as numbers. -/
theorem be16_eq (w : W16) : be16 w = [BitVec.ofNat 8 (w.toNat / 256), BitVec.ofNat 8 (w.toNat % 256)] := by
  rw [lo8_ofNat, hi8_ofNat]; rfl

/-- `be16` of a number that fits. -/
theorem be16_ofNat (n : Nat) (h : n < 65536): be16 (BitVec.ofNat 16 n) = [BitVec.ofNat 8 (n / 256), BitVec.ofNat 8 (n % 256)] := by
  rw [be16_eq]; simp [Nat.mod_eq_of_lt h]

/-- A word is the word of its two bytes. -/
theorem word16_hi8_lo8 (c : W16) : word16 (hi8 c) (lo8 c) = c := by
  apply BitVec.eq_of_toNat_eq
  have := c.isLt
  simp [word16, hi8, lo8, Nat.shiftRight_eq_div_pow]
  omega

/-- Widening a byte loses nothing. -/
theorem zext16_inj (a b : Byte) : zext16 a = zext16 b ↔ a = b := by
  simp only [zext16]
  constructor
  · intro h; apply BitVec.eq_of_toNat_eq; have := congrArg BitVec.toNat h; simp at this; omega
  · rintro rfl; rfl

/-- `byteSum` as a list sum. -/
theorem byteSum_eq (B : List Byte) : byteSum B = (B.map BitVec.toNat).sum := by
  induction B with
  | nil => rfl
  | cons b B ih => simp [byteSum, ih]

/-- Coil `i` of a chunk is bit `i` (`43_pdu_encode.md` R173). -/
theorem packChunk_bit (c : List Bool) (i : Nat) : (packChunk c).testBit i = c.getD i false := by
  induction c generalizing i with
  | nil => simp [packChunk]
  | cons b c ih =>
    cases i with
    | zero => simp [packChunk, Nat.testBit_zero]; cases b <;> simp
    | succ i =>
      have : (packChunk (b :: c)) / 2 = packChunk c := by cases b <;> simp [packChunk] <;> omega
      rw [Nat.testBit_succ, this, ih]; simp

/-- The length of a list of six-byte items. -/
theorem flatten_six (items : List (List Byte)) (h : ∀ x ∈ items, x.length = 6) : items.flatten.length = 6 * items.length := by
  induction items with
  | nil => rfl
  | cons x items ih =>
    have := ih (fun y hy => h y (by simp [hy]))
    have := h x (by simp)
    simp; simp at *; omega

/-- `readSubs` on whole items (`43_pdu_encode.md` R177). -/
theorem readSubs_eq (items : List (List Byte)) (h : ∀ x ∈ items, x.length = 6) : readSubs items.flatten = (items.map fun x => 0x06#8 :: x).flatten := by
  unfold readSubs
  rw [flatten_six items h]
  have e : 6 * items.length / 6 = items.length := by omega
  rw [e]
  congr 1
  apply List.ext_getElem?
  intro n
  simp only [List.getElem?_map]
  by_cases hn : n < items.length
  · simp [hn]
    clear e
    induction items generalizing n with
    | nil => simp at hn
    | cons x items ih =>
      have hx := h x (by simp)
      cases n with
      | zero => simp [subseq, hx]
      | succ n =>
        have := ih (fun y hy => h y (by simp [hy])) n (by simpa using hn)
        simp only [subseq] at *
        have e1 : 6 * (n+1) = x.length + 6 * n := by omega
        have e2 : 6 * (n+1) + 6 = x.length + (6 * n + 6) := by omega
        simp only [List.flatten_cons, List.getElem_cons_succ]
        rw [e2, e1, List.take_length_add_append, List.drop_length_add_append]
        exact this
  · simp [hn]

/-- The reader of `43_pdu_encode.md` R178 reads back a stream of sub-requests. -/
theorem writeSubs_of_stream (fuel : Nat) (subs : List WriteSub) (h : ∀ u ∈ subs, u.data.length = 2 * u.count.toNat)
    (hf : (subs.map WriteSub.stream).flatten.length ≤ fuel) : writeSubs fuel (subs.map WriteSub.stream).flatten = some subs := by
  induction subs generalizing fuel with
  | nil => simp [writeSubs]
  | cons u subs ih =>
    have hu := h u (by simp)
    have e : ((u :: subs).map WriteSub.stream).flatten = hi8 u.file :: lo8 u.file :: hi8 u.record :: lo8 u.record :: hi8 u.count :: lo8 u.count :: (u.data ++ (subs.map WriteSub.stream).flatten) := by
      simp [WriteSub.stream, be16]
    rw [e] at hf ⊢
    cases fuel with
    | zero => simp at hf
    | succ fuel =>
      have := ih fuel (fun y hy => h y (by simp [hy])) (by simp at hf ⊢; omega)
      simp only [writeSubs, word16_hi8_lo8]
      rw [if_neg (by simp; omega), ← hu]
      simp [this]

/-- What the reader accepts is a stream of sub-requests. -/
theorem isWriteStream_of_writeSubs (fuel : Nat) (B : List Byte) (subs) (h : writeSubs fuel B = some subs) : IsWriteStream B subs := by
  induction fuel generalizing B subs with
  | zero =>
    cases B with
    | nil => cases h; exact ⟨rfl, by simp⟩
    | cons b B => simp [writeSubs] at h
  | succ fuel ih =>
    match B with
    | [] => cases h; exact ⟨rfl, by simp⟩
    | [_] => cases h
    | [_, _] => cases h
    | [_, _, _] => cases h
    | [_, _, _, _] => cases h
    | [_, _, _, _, _] => cases h
    | f1 :: f0 :: r1 :: r0 :: k1 :: k0 :: rest =>
      simp only [writeSubs] at h
      split at h
      · cases h
      · rename_i hk
        split at h
        · cases h
        · rename_i subs' hs
          cases h
          obtain ⟨h1, h2⟩ := ih _ _ hs
          have hb : ∀ a b, be16 (word16 a b) = [a, b] := by
            intro a b
            rw [be16_eq]
            have := a.isLt; have := b.isLt
            have e1 : BitVec.ofNat 8 ((word16 a b).toNat / 256) = a := by
              apply BitVec.eq_of_toNat_eq; simp [word16]; omega
            have e2 : BitVec.ofNat 8 ((word16 a b).toNat % 256) = b := by
              apply BitVec.eq_of_toNat_eq; simp [word16]; omega
            rw [e1, e2]
          refine ⟨?_, ?_⟩
          · simp only [List.map_cons, List.flatten_cons, ← h1, WriteSub.stream, hb]
            simp
          · intro u hu
            rcases List.mem_cons.1 hu with rfl | hu
            · simp; omega
            · exact h2 u hu

/-- The reader and the stream of `30_encoding.md` R72 agree. -/
theorem writeSubs_iff {s : State} {subs} : writeSubs s.opnd.length s.opnd = some subs ↔ IsWriteStream s.opnd subs := by
  constructor
  · exact isWriteStream_of_writeSubs _ _ _
  · rintro ⟨h1, h2⟩
    have := writeSubs_of_stream s.opnd.length subs h2 (by rw [← h1])
    rw [← h1] at this; exact this

/-- The length of the body of a function-21 PDU. -/
theorem emit_total (wfr) (subs : List WriteSub) (h : ∀ u ∈ subs, u.data.length = 2 * u.count.toNat) :
    ((subs.map (WriteSub.emit wfr)).flatten).length = writeTotal wfr subs := by
  induction subs with
  | nil => rfl
  | cons u subs ih =>
    have := ih (fun y hy => h y (by simp [hy]))
    have hu := h u (by simp)
    simp only [writeTotal, List.map_cons, List.flatten_cons, List.length_append, List.sum_cons] at *
    rw [this]
    cases wfr <;> simp [WriteSub.emit, be16] <;> omega

end Sys2Proof.Machine
end

