-- ==== Sys2Proof/Laws/Frames.lean ====
section
/-! SUPPORT. Hexadecimal text and ASCII frames: what the helpers of `FrameEncode` and `FrameDecode` compute. -/

namespace Sys2Proof.Machine

/-- The two nibbles of a byte, as numbers. -/
theorem nibbles (b : Byte) : (b.extractLsb' 4 4).toNat = b.toNat / 16 ∧ (b.extractLsb' 0 4).toNat = b.toNat % 16 := by
  have := b.isLt
  simp [BitVec.extractLsb'_toNat, Nat.shiftRight_eq_div_pow]
  omega

/-- One byte more. -/
theorem hexSeq_cons (b B) : hexSeq (b :: B) = hexByte b ++ hexSeq B := rfl

/-- Two sequences one after the other. -/
theorem hexSeq_append (A B) : hexSeq (A ++ B) = hexSeq A ++ hexSeq B := by simp [hexSeq]

/-- Two digits a byte. -/
theorem hexSeq_length (B) : (hexSeq B).length = 2 * B.length := by
  induction B with
  | nil => rfl
  | cons b B ih => simp [hexSeq_cons, ih, hexByte]; omega

/-- The two digits of byte `i`. -/
theorem hexSeq_get (B : List Byte) (i : Nat) (b : Byte) (h : B[i]? = some b) : (hexSeq B)[2*i]? = some (hexChar (b.toNat/16)) ∧ (hexSeq B)[2*i+1]? = some (hexChar (b.toNat%16)) := by
  induction B generalizing i with
  | nil => simp at h
  | cons c B ih =>
    rw [hexSeq_cons, hexByte, (nibbles c).1, (nibbles c).2]
    cases i with
    | zero => simp at h; subst h; simp
    | succ i =>
      have := ih i (by simpa using h)
      have e : 2 * (i+1) = 2 * i + 2 := by omega
      simp [e, this]

/-- A digit is ASCII. -/
theorem hexChar_lt (v) (h : v < 16) : (hexChar v).toNat < 128 := by
  have : ∀ v : Fin 16, (hexChar v.val).toNat < 128 := by decide
  exact this ⟨v, h⟩

/-- Every digit is ASCII. -/
theorem hexSeq_lt (B : List Byte) : ∀ ch ∈ hexSeq B, ch.toNat < 128 := by
  induction B with
  | nil => simp [hexSeq]
  | cons b B ih =>
    rw [hexSeq_cons, hexByte, (nibbles b).1, (nibbles b).2]
    have := b.isLt
    simp
    exact ⟨hexChar_lt _ (by omega), hexChar_lt _ (by omega), ih⟩

/-- `hexVal` is defined on the digit codes alone (`30_encoding.md` R68). -/
theorem hexVal_some (ch : Byte) : (hexVal ch).isSome = true ↔ isHexDigit ch := by
  unfold hexVal isHexDigit
  split
  · simp; omega
  · split
    · simp; omega
    · split
      · simp; omega
      · simp; omega

/-- A digit is below 16. -/
theorem hexVal_lt {ch v} (h : hexVal ch = some v) : v < 16 := by
  unfold hexVal at h
  split at h
  · cases h; omega
  · split at h
    · cases h; omega
    · split at h
      · cases h; omega
      · cases h

/-- Hexadecimal text consists of digits. -/
theorem hexSeq_digit (B : List Byte) : ∀ ch ∈ hexSeq B, isHexDigit ch := by
  have h16 : ∀ v : Fin 16, (hexVal (hexChar v.val)).isSome = true := by decide
  induction B with
  | nil => simp [hexSeq]
  | cons b B ih =>
    rw [hexSeq_cons, hexByte, (nibbles b).1, (nibbles b).2]
    have := b.isLt
    simp
    refine ⟨?_, ?_, ih⟩
    · rw [← hexVal_some]; exact h16 ⟨b.toNat / 16, by omega⟩
    · rw [← hexVal_some]; exact h16 ⟨b.toNat % 16, by omega⟩

/-- The test of `dec_ascii` and the conditions of `42_frame_decode.md` R142 agree. -/
theorem asciiWellFormed_iff (F : List Byte) : asciiWellFormed F = true ↔ AsciiFrame F := by
  have hg : ∀ (c : Byte) i, i < F.length → (byteAt F i = c ↔ F[i]? = some c) := by
    intro c i hi
    simp [byteAt, hi]
  unfold asciiWellFormed
  simp only [Bool.and_eq_true, decide_eq_true_eq, beq_iff_eq]
  constructor
  · rintro ⟨⟨⟨⟨h1, h2⟩, h3, h4⟩, h5⟩, h6⟩
    refine ⟨h1, (hg _ _ (by omega)).1 h2, ⟨(hg _ _ (by omega)).1 h3, (hg _ _ (by omega)).1 h4⟩, h5, ?_⟩
    intro i h7 h8
    refine ⟨F[i]'(by omega), by simp, ?_⟩
    rw [← hexVal_some]
    rw [List.all_eq_true] at h6
    apply h6
    rw [subseq, List.mem_drop_iff_getElem]
    refine ⟨i - 1, by simp; omega, ?_⟩
    simp
    congr 1; omega
  · rintro ⟨h1, h2, ⟨h3, h4⟩, h5, h6⟩
    refine ⟨⟨⟨⟨h1, (hg _ _ (by omega)).2 h2⟩, (hg _ _ (by omega)).2 h3, (hg _ _ (by omega)).2 h4⟩, h5⟩, ?_⟩
    rw [List.all_eq_true]
    intro ch hch
    rw [subseq, List.mem_drop_iff_getElem] at hch
    obtain ⟨i, hi, rfl⟩ := hch
    simp at hi
    obtain ⟨c, hc, hd⟩ := h6 (1 + i) (by omega) (by omega)
    rw [List.getElem?_eq_getElem (by omega)] at hc
    cases hc
    rw [hexVal_some]
    simpa using hd

/-- What `unhexPairs` reads, pair by pair. -/
theorem unhexPairs_get {F D} (h : unhexPairs F = some D) : F.length = 2 * D.length ∧ ∀ j, j < D.length → unhex (F.getD (2*j) 0#8) (F.getD (2*j+1) 0#8) = D[j]? := by
  induction D generalizing F with
  | nil =>
    match F with
    | [] => simp
    | [_] => cases h
    | c1 :: c2 :: cs =>
      simp only [unhexPairs] at h
      split at h <;> cases h
  | cons d D ih =>
    match F with
    | [] => cases h
    | [_] => cases h
    | c1 :: c2 :: cs =>
      simp only [unhexPairs] at h
      split at h
      · rename_i b D' hb hD
        cases h
        have := ih hD
        refine ⟨by simp; omega, ?_⟩
        intro j hj
        cases j with
        | zero => simp [hb]
        | succ j =>
          have h2 := this.2 j (by simpa using hj)
          have e : 2 * (j+1) = 2 * j + 1 + 1 := by omega
          have e' : 2 * (j+1) + 1 = 2 * j + 1 + 1 + 1 := by omega
          rw [e', e]
          simpa using h2
      · cases h

/-- `unhexPairs` reads any even number of digits. -/
theorem unhexPairs_some (F : List Byte) (n) (hl : F.length = 2 * n) (h : ∀ ch ∈ F, isHexDigit ch) : ∃ D, unhexPairs F = some D ∧ D.length = n := by
  induction n generalizing F with
  | zero =>
    have : F = [] := by simpa using hl
    subst this; exact ⟨[], rfl, rfl⟩
  | succ n ih =>
    match F with
    | [] => simp at hl
    | [_] => simp at hl; omega
    | c1 :: c2 :: cs =>
      obtain ⟨D, hD, hDl⟩ := ih cs (by simp at hl; omega) (fun ch hc => h ch (by simp [hc]))
      have h1 := (hexVal_some c1).2 (h c1 (by simp))
      have h2 := (hexVal_some c2).2 (h c2 (by simp))
      obtain ⟨v1, h1⟩ := Option.isSome_iff_exists.1 h1
      obtain ⟨v2, h2⟩ := Option.isSome_iff_exists.1 h2
      refine ⟨BitVec.ofNat 8 (v1 * 16 + v2) :: D, by simp [unhexPairs, unhex, h1, h2, hD], by simp [hDl]⟩

/-- The characters between `:` and CR LF of a frame decode. -/
theorem frame_pairs {F} (h : AsciiFrame F) : ∃ D, unhexPairs (subseq F 1 (F.length - 2)) = some D ∧ D.length = (F.length - 3) / 2 := by
  have := h.a; have := h.d
  apply unhexPairs_some
  · simp [subseq]; omega
  · intro ch hch
    rw [subseq, List.mem_drop_iff_getElem] at hch
    obtain ⟨i, hi, rfl⟩ := hch
    simp at hi
    obtain ⟨c, hc, hd⟩ := h.e (1 + i) (by omega) (by omega)
    rw [List.getElem?_eq_getElem (by omega)] at hc
    cases hc
    simpa using hd

/-- A byte of the operand stream is a byte of `IN`. -/
theorem byteAt_opnd (s : State) {k} (h : k < s.inLen.toNat) : byteAt s.opnd k = s.readByte .inBuf k := by
  rw [byteAt, List.getD, s.opnd_getElem?, if_pos h]; rfl

end Sys2Proof.Machine
end

