-- ==== Sys2Proof/Laws/PerInstr.lean ====
section
/-! SUPPORT. Statements about every instruction as syntax, one lemma per constructor. -/

namespace Sys2Proof.Laws.RoundTrip

/-- The word of a command spells that command, and its fields are those of `30_encoding.md` R60. -/
def Statement (i : Instr) : Prop :=
  decode (encode i) = .instr i ∧ splitWord (encode i) = { op := i.opField, zero := 0#4, sel := i.selField }

theorem crc16 : Statement .crc16 := ⟨by decide, by decide⟩
theorem lrc8 : Statement .lrc8 := ⟨by decide, by decide⟩
theorem encfRtu : Statement .encfRtu := ⟨by decide, by decide⟩
theorem encfAscii : Statement .encfAscii := ⟨by decide, by decide⟩
theorem decfRtu : Statement .decfRtu := ⟨by decide, by decide⟩
theorem decfAscii : Statement .decfAscii := ⟨by decide, by decide⟩
theorem pduenc1 : Statement .pduenc1 := ⟨by decide, by decide⟩
theorem pduenc2 : Statement .pduenc2 := ⟨by decide, by decide⟩
theorem pduenc3 : Statement .pduenc3 := ⟨by decide, by decide⟩
theorem pduenc4 : Statement .pduenc4 := ⟨by decide, by decide⟩
theorem pduenc5 : Statement .pduenc5 := ⟨by decide, by decide⟩
theorem pduenc6 : Statement .pduenc6 := ⟨by decide, by decide⟩
theorem pduenc7 : Statement .pduenc7 := ⟨by decide, by decide⟩
theorem pduenc8 : Statement .pduenc8 := ⟨by decide, by decide⟩
theorem pduenc11 : Statement .pduenc11 := ⟨by decide, by decide⟩
theorem pduenc12 : Statement .pduenc12 := ⟨by decide, by decide⟩
theorem pduenc15 : Statement .pduenc15 := ⟨by decide, by decide⟩
theorem pduenc16 : Statement .pduenc16 := ⟨by decide, by decide⟩
theorem pduenc17 : Statement .pduenc17 := ⟨by decide, by decide⟩
theorem pduenc20 : Statement .pduenc20 := ⟨by decide, by decide⟩
theorem pduenc21 : Statement .pduenc21 := ⟨by decide, by decide⟩
theorem pduenc22 : Statement .pduenc22 := ⟨by decide, by decide⟩
theorem pduenc23 : Statement .pduenc23 := ⟨by decide, by decide⟩
theorem pduenc24 : Statement .pduenc24 := ⟨by decide, by decide⟩
theorem pduenc43 : Statement .pduenc43 := ⟨by decide, by decide⟩
theorem xfer : Statement .xfer := ⟨by decide, by decide⟩

end Sys2Proof.Laws.RoundTrip
end

