-- ==== Sys2Proof/Tests/Slice0.lean ====
section
/-! SUPPORT. Tests: ill-formed terms, decoding of words written out from `30_encoding.md` R60 to R64, the vectors
`V<n>` of `95_test_vectors.md`, and for every obligation with hypotheses a witness that meets them. -/

namespace Sys2Proof.Tests

open Sys2Proof Sys2Proof.Machine

/-! ## Helpers -/

/-- Bytes from numbers. -/
def bytes (l : List Nat) : List Byte := l.map (BitVec.ofNat 8)

/-- Parameters with `WFR_RECLEN = absent`. -/
def caps (inCap outCap : Nat) : Params := { inCap := inCap, outCap := outCap, wfrReclen := .absent }

/-- The reset state with operands written by the host. -/
def loaded (p : Params) (a0 a1 a2 : W16) (B : List Byte) : State :=
  { State.resetWith p with
    a0 := a0, a1 := a1, a2 := a2, inLen := BitVec.ofNat 16 B.length, inMem := Memory.writeSeq [] 0 B }

/-- The same with the default parameters. -/
def dflt (a0 a1 a2 : W16) (B : List Byte) : State := loaded Config.defaultParams a0 a1 a2 B

/-- A state with given capacities, `A[0]`, `A[1]` and lengths. -/
def sized (inCap outCap : Nat) (a0 a1 : W16) (inLen outLen : Nat) : State :=
  { State.resetWith (caps inCap outCap) with
    a0 := a0, a1 := a1, inLen := BitVec.ofNat 16 inLen, outLen := BitVec.ofNat 16 outLen }

/-- A state whose host has given actions to do. -/
def doing (l : List HostAction) : State := State.reset.setPending l

/-- The result record a step leaves. -/
def resultOf : Host.Outcome State Fault Refusal → Option ResultRecord
  | .next t => some t.result
  | .fault _ => none
  | .refused _ => none

/-- Whether a step goes on. -/
def isNext : Host.Outcome State Fault Refusal → Bool
  | .next _ => true
  | .fault _ => false
  | .refused _ => false

/-! ## Ill-formed terms -/

theorem test_params_too_small : ¬ (caps 6 1024).wf ∧ ¬ (caps 1024 6).wf := by decide

theorem test_params_too_large : ¬ (caps 65536 1024).wf ∧ ¬ (caps 1024 65536).wf := by decide

theorem test_params_bounds : (caps 7 7).wf ∧ (caps 65535 65535).wf ∧ Config.defaultParams.wf := by decide

theorem test_host_byte_outside :
    ¬ HostAction.wf (caps 8 9) (.writeByte .inBuf 8 0#8) ∧ ¬ HostAction.wf (caps 8 9) (.readByte .outBuf 9) ∧
    HostAction.wf (caps 8 9) (.writeByte .inBuf 7 0#8) ∧ HostAction.wf (caps 8 9) (.readByte .outBuf 8) := by decide

theorem test_memory_wf_refuses : ¬ Memory.wf [(3, 0#8), (3, 1#8)] ∧ ¬ Memory.wf [(4, 0#8), (3, 1#8)] := by decide

/-! ## Decoding, each word written bit by bit: `OP`, `ZERO`, `SEL` (`30_encoding.md` R60, R61, R63) -/

theorem test_decode_checksum :
    decode 0b0001000000000000#16 = .instr .crc16 ∧
    decode 0b0010000000000000#16 = .instr .lrc8 := by decide

theorem test_decode_frame :
    decode 0b0011000000000000#16 = .instr .encfRtu ∧
    decode 0b0011000000000001#16 = .instr .encfAscii ∧
    decode 0b0100000000000000#16 = .instr .decfRtu ∧
    decode 0b0100000000000001#16 = .instr .decfAscii := by decide

theorem test_decode_pduenc :
    decode 0b0101000000000001#16 = .instr .pduenc1 ∧
    decode 0b0101000000000010#16 = .instr .pduenc2 ∧
    decode 0b0101000000000011#16 = .instr .pduenc3 ∧
    decode 0b0101000000000100#16 = .instr .pduenc4 ∧
    decode 0b0101000000000101#16 = .instr .pduenc5 ∧
    decode 0b0101000000000110#16 = .instr .pduenc6 ∧
    decode 0b0101000000000111#16 = .instr .pduenc7 ∧
    decode 0b0101000000001000#16 = .instr .pduenc8 ∧
    decode 0b0101000000001011#16 = .instr .pduenc11 ∧
    decode 0b0101000000001100#16 = .instr .pduenc12 ∧
    decode 0b0101000000001111#16 = .instr .pduenc15 ∧
    decode 0b0101000000010000#16 = .instr .pduenc16 ∧
    decode 0b0101000000010001#16 = .instr .pduenc17 ∧
    decode 0b0101000000010100#16 = .instr .pduenc20 ∧
    decode 0b0101000000010101#16 = .instr .pduenc21 ∧
    decode 0b0101000000010110#16 = .instr .pduenc22 ∧
    decode 0b0101000000010111#16 = .instr .pduenc23 ∧
    decode 0b0101000000011000#16 = .instr .pduenc24 ∧
    decode 0b0101000000101011#16 = .instr .pduenc43 := by decide

theorem test_decode_xfer :
    decode 0b0110000000000000#16 = .instr .xfer := by decide

/-- The numbering of spec/opcode_table.json: bit 0 is the least significant bit of the word. -/
theorem test_decode_table_words :
    decodeTableWord 16 0x1000 = some .crc16 ∧
    decodeTableWord 16 0x3001 = some .encfAscii ∧
    decodeTableWord 16 0x5001 = some .pduenc1 ∧
    decodeTableWord 16 0x502B = some .pduenc43 ∧
    decodeTableWord 16 0x6000 = some .xfer ∧
    decodeTableWord 16 0x5000 = none ∧ decodeTableWord 16 0x1001 = none ∧ decodeTableWord 24 0x1000 = none := by decide

/-- V80 to V89. -/
theorem test_illegal_words : List.all [0x0000#16, 0x1001#16, 0x2080#16, 0x3002#16, 0x4002#16, 0x40FF#16, 0x1100#16,
    0x5100#16, 0x5109#16, 0x6001#16, 0x7000#16, 0xF000#16, 0xFFFF#16] (fun w => decode w == .illegal) = true := by decide +kernel

/-- V8A to V8E. -/
theorem test_unsupported_words : List.all [0x5000#16, 0x5009#16, 0x500A#16, 0x500D#16, 0x5019#16, 0x502A#16, 0x502C#16,
    0x5083#16, 0x50FF#16] (fun w => decode w == .unsupportedFc) = true := by decide +kernel

/-- V80, V8A: the results. -/
theorem test_illegal_result :
    resultOf (step (doing [.writeReg .cmd 0x0000#16])) = some { status := 0x0004#16 } ∧
    resultOf (step (doing [.writeReg .cmd 0x5000#16])) = some { status := 0x0003#16 } := by decide

/-! ## The vectors of `95_test_vectors.md` -/

/-- V2. -/
theorem test_crc16_known : resultOf (exec .crc16 (dflt 0x0000#16 0x0000#16 0x0000#16 (bytes [0x01, 0x03, 0x00]))) =
    some { r0 := 0xF020#16 } := by decide +kernel

/-- V9E. -/
theorem test_crc16_residue : resultOf (exec .crc16 (dflt 0x0000#16 0x0000#16 0x0000#16 (bytes [0x11, 0x03, 0x00, 0x6B, 0x00, 0x03, 0x76, 0x87]))) =
    some { status := 0x0000#16 } := by decide +kernel

/-- V15. -/
theorem test_lrc8_known : resultOf (exec .lrc8 (dflt 0x0000#16 0x0000#16 0x0000#16 (bytes [0x11, 0x03, 0x00, 0x6B, 0x00, 0x03]))) =
    some { r0 := 0x007E#16 } := by decide

/-- V14. -/
theorem test_lrc8_wraps : resultOf (exec .lrc8 (dflt 0x0000#16 0x0000#16 0x0000#16 (bytes [0x80, 0x80]))) =
    some { status := 0x0000#16 } := by decide

/-- V20. -/
theorem test_encfRtu : resultOf (exec .encfRtu (dflt 0x0011#16 0x0000#16 0x0000#16 (bytes [0x03, 0x00, 0x6B, 0x00, 0x03]))) =
    some { out := bytes [0x11, 0x03, 0x00, 0x6B, 0x00, 0x03, 0x76, 0x87], r0 := 0x8776#16 } := by decide +kernel

/-- V29. -/
theorem test_encfRtu_address : resultOf (exec .encfRtu (dflt 0x00F8#16 0x0000#16 0x0000#16 (bytes [0x07]))) =
    some { status := 0x0002#16 } := by decide

/-- V28. -/
theorem test_encfAscii_letters : resultOf (exec .encfAscii (dflt 0x00F0#16 0x0000#16 0x0000#16 (bytes [0xAB, 0xCD, 0xEF, 0x9A]))) =
    some { out := bytes [0x3A, 0x66, 0x30, 0x61, 0x62, 0x63, 0x64, 0x65, 0x66, 0x39, 0x61, 0x30, 0x66, 0x0D, 0x0A], r0 := 0x000F#16 } := by decide +kernel

/-- V29A. -/
theorem test_encfAscii_address : resultOf (exec .encfAscii (dflt 0x0111#16 0x0000#16 0x0000#16 (bytes [0x07]))) =
    some { status := 0x0002#16 } := by decide

/-- V31. -/
theorem test_decfRtu_corrupted : resultOf (exec .decfRtu (dflt 0x0000#16 0x0000#16 0x0000#16 (bytes [0x11, 0x03, 0x00, 0x6B, 0x00, 0x03, 0x76, 0x86]))) =
    some { status := 0x0010#16, out := bytes [0x03, 0x00, 0x6B, 0x00, 0x03], r0 := 0x8776#16, r1 := 0x8676#16, r2 := 0x0011#16 } := by decide +kernel

/-- V34. -/
theorem test_decfRtu_short : resultOf (exec .decfRtu (dflt 0x0000#16 0x0000#16 0x0000#16 (bytes [0x01, 0x7E]))) =
    some { status := 0x0001#16 } := by decide

/-- V37. -/
theorem test_decfAscii_uppercase : resultOf (exec .decfAscii (dflt 0x0000#16 0x0000#16 0x0000#16 (bytes [0x3A, 0x31, 0x31, 0x30, 0x33, 0x30, 0x30, 0x36, 0x42, 0x30, 0x30, 0x30, 0x33, 0x37, 0x45, 0x0D, 0x0A]))) =
    some { status := 0x0008#16, out := bytes [0x03, 0x00, 0x6B, 0x00, 0x03], r0 := 0x007E#16, r1 := 0x007E#16, r2 := 0x0011#16 } := by decide +kernel

/-- V3G. -/
theorem test_decfAscii_odd : resultOf (exec .decfAscii (dflt 0x0000#16 0x0000#16 0x0000#16 (bytes [0x3A, 0x31, 0x31, 0x30, 0x33, 0x30, 0x30, 0x36, 0x62, 0x30, 0x30, 0x30, 0x33, 0x37, 0x0D, 0x0A]))) =
    some { status := 0x0001#16 } := by decide +kernel

/-- V41. -/
theorem test_pduenc1 : resultOf (exec .pduenc1 (dflt 0x0013#16 0x0025#16 0x0000#16 ([]))) =
    some { out := bytes [0x01, 0x00, 0x13, 0x00, 0x25] } := by decide

/-- V42. -/
theorem test_pduenc2 : resultOf (exec .pduenc2 (dflt 0x00C4#16 0x0016#16 0x0000#16 ([]))) =
    some { out := bytes [0x02, 0x00, 0xC4, 0x00, 0x16] } := by decide

/-- V44. -/
theorem test_pduenc3 : resultOf (exec .pduenc3 (dflt 0xFFFF#16 0xFFFF#16 0x0000#16 ([]))) =
    some { out := bytes [0x03, 0xFF, 0xFF, 0xFF, 0xFF] } := by decide

/-- V45. -/
theorem test_pduenc4 : resultOf (exec .pduenc4 (dflt 0x0008#16 0x0001#16 0x0000#16 ([]))) =
    some { out := bytes [0x04, 0x00, 0x08, 0x00, 0x01] } := by decide

/-- V48. -/
theorem test_pduenc5_on : resultOf (exec .pduenc5 (dflt 0x00AC#16 0x0100#16 0x0000#16 ([]))) =
    some { out := bytes [0x05, 0x00, 0xAC, 0xFF, 0x00] } := by decide

/-- V47. -/
theorem test_pduenc5_off : resultOf (exec .pduenc5 (dflt 0x00AC#16 0x0000#16 0x0000#16 ([]))) =
    some { out := bytes [0x05, 0x00, 0xAC, 0x00, 0x00] } := by decide

/-- V49. -/
theorem test_pduenc6 : resultOf (exec .pduenc6 (dflt 0x0001#16 0x0003#16 0x0000#16 ([]))) =
    some { out := bytes [0x06, 0x00, 0x01, 0x00, 0x03] } := by decide

/-- V50. -/
theorem test_pduenc7 : resultOf (exec .pduenc7 (dflt 0x0000#16 0x0000#16 0x0000#16 ([]))) =
    some { out := bytes [0x07] } := by decide

/-- V51. -/
theorem test_pduenc8 : resultOf (exec .pduenc8 (dflt 0x0000#16 0x0000#16 0x0000#16 (bytes [0xA5, 0x37]))) =
    some { out := bytes [0x08, 0x00, 0x00, 0xA5, 0x37] } := by decide

/-- V94. -/
theorem test_pduenc8_overflow : resultOf (exec .pduenc8 (loaded (caps 1024 8) 0x0000#16 0x0000#16 0x0000#16 (bytes [0x00, 0x00, 0x00, 0x00, 0x00, 0x00]))) =
    some { status := 0x0005#16 } := by decide

/-- V53. -/
theorem test_pduenc11 : resultOf (exec .pduenc11 (dflt 0x0000#16 0x0000#16 0x0000#16 ([]))) =
    some { out := bytes [0x0B] } := by decide

/-- V54. -/
theorem test_pduenc12 : resultOf (exec .pduenc12 (dflt 0x0000#16 0x0000#16 0x0000#16 ([]))) =
    some { out := bytes [0x0C] } := by decide

/-- V55A. -/
theorem test_pduenc15_nonzero : resultOf (exec .pduenc15 (dflt 0x0013#16 0x0000#16 0x0000#16 (bytes [0xFF, 0x00, 0x02, 0x80, 0x00, 0x00, 0x00, 0x00, 0x01]))) =
    some { out := bytes [0x0F, 0x00, 0x13, 0x00, 0x09, 0x02, 0x0D, 0x01] } := by decide +kernel

/-- V55C. -/
theorem test_pduenc15_ten : resultOf (exec .pduenc15 (dflt 0x0013#16 0x0000#16 0x0000#16 (bytes [0x01, 0x00, 0x01, 0x01, 0x00, 0x00, 0x01, 0x01, 0x01, 0x00]))) =
    some { out := bytes [0x0F, 0x00, 0x13, 0x00, 0x0A, 0x02, 0xCD, 0x01] } := by decide +kernel

/-- V56. -/
theorem test_pduenc16 : resultOf (exec .pduenc16 (dflt 0x0001#16 0x0000#16 0x0000#16 (bytes [0x00, 0x0A, 0x01, 0x02]))) =
    some { out := bytes [0x10, 0x00, 0x01, 0x00, 0x02, 0x04, 0x00, 0x0A, 0x01, 0x02] } := by decide

/-- V70. -/
theorem test_pduenc16_odd : resultOf (exec .pduenc16 (dflt 0x0001#16 0x0000#16 0x0000#16 (bytes [0x00, 0x0A, 0x01]))) =
    some { status := 0x0002#16 } := by decide

/-- V57. -/
theorem test_pduenc17 : resultOf (exec .pduenc17 (dflt 0x0000#16 0x0000#16 0x0000#16 ([]))) =
    some { out := bytes [0x11] } := by decide

/-- V60. -/
theorem test_pduenc20 : resultOf (exec .pduenc20 (dflt 0x0000#16 0x0000#16 0x0000#16 (bytes [0x00, 0x04, 0x00, 0x01, 0x00, 0x02, 0x00, 0x03, 0x00, 0x09, 0x00, 0x02]))) =
    some { out := bytes [0x14, 0x0E, 0x06, 0x00, 0x04, 0x00, 0x01, 0x00, 0x02, 0x06, 0x00, 0x03, 0x00, 0x09, 0x00, 0x02] } := by decide +kernel

/-- V72. -/
theorem test_pduenc20_partial : resultOf (exec .pduenc20 (dflt 0x0000#16 0x0000#16 0x0000#16 (bytes [0x00, 0x04, 0x00, 0x01, 0x00]))) =
    some { status := 0x0002#16 } := by decide

/-- V65. -/
theorem test_pduenc21_present : resultOf (exec .pduenc21 (loaded { inCap := 1024, outCap := 1024, wfrReclen := .present } 0x0000#16 0x0000#16 0x0000#16 (bytes [0x00, 0x04, 0x00, 0x07, 0x00, 0x01, 0x06, 0xAF, 0x00, 0x05, 0x00, 0x00, 0x00, 0x00]))) =
    some { out := bytes [0x15, 0x10, 0x06, 0x00, 0x04, 0x00, 0x07, 0x00, 0x01, 0x06, 0xAF, 0x06, 0x00, 0x05, 0x00, 0x00, 0x00, 0x00] } := by decide +kernel

/-- V75. -/
theorem test_pduenc21_stray : resultOf (exec .pduenc21 (dflt 0x0000#16 0x0000#16 0x0000#16 (bytes [0x00, 0x04, 0x00, 0x07, 0x00, 0x01, 0x06, 0xAF, 0x00, 0x04]))) =
    some { status := 0x0002#16 } := by decide +kernel

/-- V58. -/
theorem test_pduenc22 : resultOf (exec .pduenc22 (dflt 0x0004#16 0x00F2#16 0x0025#16 ([]))) =
    some { out := bytes [0x16, 0x00, 0x04, 0x00, 0xF2, 0x00, 0x25] } := by decide

/-- V59. -/
theorem test_pduenc23 : resultOf (exec .pduenc23 (dflt 0x0003#16 0x0006#16 0x000E#16 (bytes [0x00, 0xFF, 0x00, 0xFF, 0x00, 0xFF]))) =
    some { out := bytes [0x17, 0x00, 0x03, 0x00, 0x06, 0x00, 0x0E, 0x00, 0x03, 0x06, 0x00, 0xFF, 0x00, 0xFF, 0x00, 0xFF] } := by decide

/-- V78. -/
theorem test_pduenc23_odd : resultOf (exec .pduenc23 (dflt 0x0003#16 0x0006#16 0x000E#16 (bytes [0x00, 0xFF, 0x00]))) =
    some { status := 0x0002#16 } := by decide

/-- V5A. -/
theorem test_pduenc24 : resultOf (exec .pduenc24 (dflt 0x04DE#16 0x0000#16 0x0000#16 ([]))) =
    some { out := bytes [0x18, 0x04, 0xDE] } := by decide

/-- V67. -/
theorem test_pduenc43 : resultOf (exec .pduenc43 (dflt 0x0001#16 0x0003#16 0x0000#16 ([]))) =
    some { out := bytes [0x2B, 0x0E, 0x01, 0x03] } := by decide

/-- V77. -/
theorem test_pduenc43_object : resultOf (exec .pduenc43 (dflt 0x0001#16 0x01FF#16 0x0000#16 ([]))) =
    some { status := 0x0002#16 } := by decide

/-- P1, step 4: the PDU of step 3 in `OUT` goes to `IN`, `R[*]` and `OUT` stay. -/
theorem test_xfer :
    (match exec .pduenc3 (dflt 0x006B#16 0x0003#16 0#16 []) with
      | .next t => match exec .xfer t with
        | .next u => u.opnd == bytes [0x03, 0x00, 0x6B, 0x00, 0x03] && u.result == t.result && u.inLen == 5#16
        | .fault _ => false
        | .refused _ => false
      | .fault _ => false
      | .refused _ => false) = true := by decide

/-- V9G: eleven bytes do not fit `IN`. -/
theorem test_xfer_overflow : resultOf (exec .xfer (sized 8 16 1#16 0#16 8 11)) = some { status := 0x0005#16 } := by decide

/-- V98, V9F: `IN_LEN = 9` above `IN_CAP = 8`. -/
theorem test_in_len_above_cap :
    resultOf (exec .crc16 (sized 8 1024 1#16 2#16 9 0)) = some { status := 0x0002#16 } ∧
    resultOf (exec .pduenc3 (sized 8 1024 1#16 2#16 9 0)) = some { out := bytes [0x03, 0x00, 0x01, 0x00, 0x02] } := by decide

/-! ## The host's side -/

/-- A word placed by `withFetchWord` is the first command after reset. -/
theorem test_fetch_word : resultOf (step (State.reset.withFetchWord 16 0x5007)) = some { out := [0x07#8] } := by decide

/-- `30_encoding.md` R75: `LDIN [A5 37]`. -/
theorem test_ldin : hostLdin [0xA5#8, 0x37#8] =
    [.writeByte .inBuf 0 0xA5#8, .writeByte .inBuf 1 0x37#8, .writeReg .inLen 2#16] := by decide

/-- `30_encoding.md` R76: `REQ.RTU 3, 0x11` is program P1, steps 3 to 6. -/
theorem test_req : hostReq .encfRtu 0x03#8 0x0011#16 =
    [.writeReg .cmd 0x5003#16, .skipIfErr 4, .writeReg .cmd 0x6000#16, .skipIfErr 2, .writeReg .a0 0x0011#16,
      .writeReg .cmd 0x3000#16] := by decide

/-- After an error the rest of `REQ.RTU` is left out. -/
theorem test_skip_after_error :
    step { doing [.skipIfErr 2, .writeReg .a0 1#16, .writeReg .cmd 0x3000#16, .readReg .status] with status := 0x0003#16 } =
      .next { doing [.readReg .status] with status := 0x0003#16 } := rfl

/-- `10_state.md` R24: a write to `STATUS` is ignored, a write to a byte of `IN` lands. -/
theorem test_host_writes :
    step (doing [.writeReg .status 5#16]) = .next State.reset ∧
    step (doing [.writeByte .inBuf 1023 0x11#8]) = .next { State.reset with inMem := [(1023, 0x11#8)] } := ⟨rfl, rfl⟩

/-- `93_implementation_defined.md` U15, notes/assumptions/9.md: the byte after the last one. -/
theorem test_no_such_byte :
    step (doing [.writeByte .inBuf 1024 0x11#8]) = .fault (.noSuchByte .inBuf 1024) ∧
    step (doing [.readByte .outBuf 1024]) = .fault (.noSuchByte .outBuf 1024) := ⟨rfl, rfl⟩

/-! ## Witnesses: for every obligation with hypotheses, states that meet them, clause by clause -/

theorem witness_IllegalWordsEndInIllegalCmd :
    (doing [.writeReg .cmd 0x0FFF#16, .reset]).pending = .writeReg .cmd 0x0FFF#16 :: [.reset] ∧
    List.all [0x0FFF#16, 0x7000#16, 0x1100#16, 0x1001#16, 0x6001#16, 0x3002#16, 0x4002#16]
      (fun w => decode w == .illegal) = true := ⟨rfl, by decide +kernel⟩

theorem witness_UnsupportedFunctionsEndInUnsupportedFc :
    (doing [.writeReg .cmd 0x5000#16]).pending = .writeReg .cmd 0x5000#16 :: [] ∧
    List.all [0x5000#16, 0x5009#16, 0x50FF#16] (fun w => decode w == .unsupportedFc) = true := ⟨rfl, by decide +kernel⟩

theorem witness_StepRunsTheDecodedCommand :
    (doing [.writeReg .cmd 0x6000#16]).pending = .writeReg .cmd 0x6000#16 :: [] ∧ decode 0x6000#16 = .instr .xfer ∧
    decode 0x1000#16 = .instr .crc16 := by decide

theorem witness_HostWritesReachOnlyWritableElements :
    (doing [.writeReg .a0 0xFFFF#16]).pending = .writeReg .a0 0xFFFF#16 :: [] ∧
    (doing [.writeReg .a1 0xFFFF#16]).pending = .writeReg .a1 0xFFFF#16 :: [] ∧
    (doing [.writeReg .a2 0xFFFF#16]).pending = .writeReg .a2 0xFFFF#16 :: [] ∧
    (doing [.writeReg .a3 0xFFFF#16]).pending = .writeReg .a3 0xFFFF#16 :: [] ∧
    (doing [.writeReg .inLen 0xFFFF#16]).pending = .writeReg .inLen 0xFFFF#16 :: [] ∧
    (Reg.r0 ∈ [Reg.r0, .r1, .r2, .status, .outLen] ∧
      (doing [.writeReg .r0 1#16]).pending = .writeReg .r0 1#16 :: []) ∧
    (1023 < State.reset.params.outCap ∧
      (doing [.writeByte .outBuf 1023 1#8]).pending = .writeByte .outBuf 1023 1#8 :: []) ∧
    (1023 < State.reset.params.inCap ∧
      (doing [.writeByte .inBuf 1023 1#8]).pending = .writeByte .inBuf 1023 1#8 :: []) := by decide

theorem witness_HostReadsChangeNothing :
    (doing [.readReg .outLen]).pending = .readReg .outLen :: [] ∧
    (1023 < State.reset.params.inCap ∧ (doing [.readByte .inBuf 1023]).pending = .readByte .inBuf 1023 :: []) ∧
    (0 < State.reset.params.outCap ∧ (doing [.readByte .outBuf 0]).pending = .readByte .outBuf 0 :: []) := by decide

theorem witness_ResetClearsResultsAndLengths : (doing [.reset, .reset]).pending = .reset :: [.reset] := by decide

theorem witness_HostDecisionAndIdleKeepTheBlock :
    (doing [.skipIfErr 0]).pending = .skipIfErr 0 :: [] ∧ State.reset.pending = [] := by decide

theorem witness_ResetMeetsInvariant : (caps 7 7).wf ∧ (caps 65535 65535).wf := by decide

theorem witness_EveryStepKeepsInvariant :
    (doing [.writeReg .cmd 0x3000#16]).Inv ∧ isNext (step (doing [.writeReg .cmd 0x3000#16])) = true := by decide +kernel

theorem witness_OnlyTheHostChangesOperandRegisters :
    isNext (step (doing [.writeReg .a0 1#16])) = true ∧ (doing [.writeReg .a0 1#16]).pending.head? ≠ some .reset ∧
    (∀ v, (doing [.writeReg .cmd 0x6000#16]).pending.head? ≠ some (.writeReg .a0 v)) ∧
    (∀ v, (doing [.writeReg .a0 1#16]).pending.head? ≠ some (.writeReg .a1 v)) ∧
    (∀ v, (doing [.writeReg .a0 1#16]).pending.head? ≠ some (.writeReg .a2 v)) ∧
    (∀ v, (doing [.writeReg .a0 1#16]).pending.head? ≠ some (.writeReg .a3 v)) :=
  ⟨by decide, by decide, nofun, nofun, nofun, nofun⟩

theorem witness_LrcIsTheByteThatZeroesTheSum : (((bytes [0xFF]).map BitVec.toNat).sum + (0x01#8).toNat) % 256 = 0 := by decide

/-- Also the second hypotheses of `XferCommand`. -/
theorem witness_Crc16Command_Lrc8Command :
    ((0x1001#16).toNat / 256 = 0x10 ∧ (0x1001#16).toNat % 256 ≠ 0) ∧
    ((0x20FF#16).toNat / 256 = 0x20 ∧ (0x20FF#16).toNat % 256 ≠ 0) ∧
    ((0x6001#16).toNat / 256 = 0x60 ∧ (0x6001#16).toNat % 256 ≠ 0) ∧
    (sized 1024 1024 0 0 1025 0).params.inCap < (sized 1024 1024 0 0 1025 0).inLen.toNat ∧
    (sized 1024 1024 0 0 1024 0).inLen.toNat ≤ (sized 1024 1024 0 0 1024 0).params.inCap := by decide

theorem witness_UnhexUndoesHex : hexByte 0xFF#8 = [0x66#8, 0x66#8] := by decide

theorem witness_RtuFrameLayout : 0 < (bytes [0x07]).length := by decide

theorem witness_AsciiFrameLayout :
    (bytes [0x07])[0]? = some 0x07#8 ∧ 0x3A#8 ∈ encAscii 0x01#8 [] := by decide


theorem witness_EncfRtuCommand :
    ((sized 8 16 0 0 9 0).params.wf ∧ (sized 8 16 0 0 9 0).params.inCap < (sized 8 16 0 0 9 0).inLen.toNat) ∧
    ((sized 8 16 248 0 0 0).params.wf ∧ 247 < (sized 8 16 248 0 0 0).a0.toNat) ∧
    ((sized 8 8 247 0 6 0).params.wf ∧ (sized 8 8 247 0 6 0).inLen.toNat ≤ (sized 8 8 247 0 6 0).params.inCap ∧ (sized 8 8 247 0 6 0).a0.toNat ≤ 247 ∧ (sized 8 8 247 0 6 0).params.outCap < (sized 8 8 247 0 6 0).inLen.toNat + 3) ∧
    ((sized 8 8 247 0 5 0).params.wf ∧ (sized 8 8 247 0 5 0).inLen.toNat ≤ (sized 8 8 247 0 5 0).params.inCap ∧ (sized 8 8 247 0 5 0).a0.toNat ≤ 247 ∧ (sized 8 8 247 0 5 0).inLen.toNat + 3 ≤ (sized 8 8 247 0 5 0).params.outCap) := by decide

theorem witness_EncfAsciiCommand :
    ((sized 8 16 0 0 9 0).params.wf ∧ (sized 8 16 0 0 9 0).params.inCap < (sized 8 16 0 0 9 0).inLen.toNat) ∧
    ((sized 8 16 248 0 0 0).params.wf ∧ 247 < (sized 8 16 248 0 0 0).a0.toNat) ∧
    ((sized 8 8 247 0 1 0).params.wf ∧ (sized 8 8 247 0 1 0).inLen.toNat ≤ (sized 8 8 247 0 1 0).params.inCap ∧ (sized 8 8 247 0 1 0).a0.toNat ≤ 247 ∧ (sized 8 8 247 0 1 0).params.outCap < 2 * (sized 8 8 247 0 1 0).inLen.toNat + 7) ∧
    ((sized 8 7 0 0 0 0).params.wf ∧ (sized 8 7 0 0 0 0).inLen.toNat ≤ (sized 8 7 0 0 0 0).params.inCap ∧ (sized 8 7 0 0 0 0).a0.toNat ≤ 247 ∧ 2 * (sized 8 7 0 0 0 0).inLen.toNat + 7 ≤ (sized 8 7 0 0 0 0).params.outCap) := by decide

theorem witness_DecfRtuCommand :
    ((sized 8 16 0 0 9 0).params.wf ∧ (sized 8 16 0 0 9 0).params.inCap < (sized 8 16 0 0 9 0).inLen.toNat) ∧
    ((sized 8 16 0 0 2 0).params.wf ∧ (sized 8 16 0 0 2 0).inLen.toNat ≤ (sized 8 16 0 0 2 0).params.inCap ∧ (sized 8 16 0 0 2 0).inLen.toNat < 3) ∧
    ((sized 12 8 0 0 12 0).params.wf ∧ (sized 12 8 0 0 12 0).inLen.toNat ≤ (sized 12 8 0 0 12 0).params.inCap ∧ (sized 12 8 0 0 12 0).params.outCap < (sized 12 8 0 0 12 0).inLen.toNat - 3) ∧
    ((sized 12 8 0 0 3 0).params.wf ∧ (sized 12 8 0 0 3 0).inLen.toNat ≤ (sized 12 8 0 0 3 0).params.inCap ∧ 3 ≤ (sized 12 8 0 0 3 0).inLen.toNat ∧ (sized 12 8 0 0 3 0).inLen.toNat - 3 ≤ (sized 12 8 0 0 3 0).params.outCap) ∧
    ((sized 12 8 0 0 11 0).params.wf ∧ (sized 12 8 0 0 11 0).inLen.toNat ≤ (sized 12 8 0 0 11 0).params.inCap ∧ 3 ≤ (sized 12 8 0 0 11 0).inLen.toNat ∧ (sized 12 8 0 0 11 0).inLen.toNat - 3 ≤ (sized 12 8 0 0 11 0).params.outCap) := by decide

/-- The opposite of a condition, from the test of the decoder. -/
theorem not_frame {F : List Byte} (h : asciiWellFormed F = false) : ¬ AsciiFrame F := fun hF => by
  rw [(asciiWellFormed_iff F).2 hF] at h
  cases h

theorem is_frame {F : List Byte} (h : asciiWellFormed F = true) : AsciiFrame F := (asciiWellFormed_iff F).1 h

theorem witness_DecfAsciiCommand :
    ((sized 8 16 0 0 9 0).params.wf ∧ (sized 8 16 0 0 9 0).params.inCap < (sized 8 16 0 0 9 0).inLen.toNat) ∧
    ((loaded (caps 32 7) 0 0 0 (bytes [0x3A, 0x30, 0x31, 0x66, 0x0D, 0x0A])).params.wf ∧ (loaded (caps 32 7) 0 0 0 (bytes [0x3A, 0x30, 0x31, 0x66, 0x0D, 0x0A])).inLen.toNat ≤ (loaded (caps 32 7) 0 0 0 (bytes [0x3A, 0x30, 0x31, 0x66, 0x0D, 0x0A])).params.inCap ∧
      ¬ AsciiFrame (loaded (caps 32 7) 0 0 0 (bytes [0x3A, 0x30, 0x31, 0x66, 0x0D, 0x0A])).opnd) ∧
    ((loaded (caps 32 7) 0 0 0 (bytes [0x3A, 0x30, 0x30, 0x30, 0x30, 0x30, 0x30, 0x30, 0x30, 0x30, 0x30, 0x30, 0x30, 0x30, 0x30, 0x30, 0x30, 0x30, 0x30, 0x30, 0x30, 0x0D, 0x0A])).params.wf ∧
      (loaded (caps 32 7) 0 0 0 (bytes [0x3A, 0x30, 0x30, 0x30, 0x30, 0x30, 0x30, 0x30, 0x30, 0x30, 0x30, 0x30, 0x30, 0x30, 0x30, 0x30, 0x30, 0x30, 0x30, 0x30, 0x30, 0x0D, 0x0A])).inLen.toNat ≤ 32 ∧
      AsciiFrame (loaded (caps 32 7) 0 0 0 (bytes [0x3A, 0x30, 0x30, 0x30, 0x30, 0x30, 0x30, 0x30, 0x30, 0x30, 0x30, 0x30, 0x30, 0x30, 0x30, 0x30, 0x30, 0x30, 0x30, 0x30, 0x30, 0x0D, 0x0A])).opnd ∧
      7 < ((loaded (caps 32 7) 0 0 0 (bytes [0x3A, 0x30, 0x30, 0x30, 0x30, 0x30, 0x30, 0x30, 0x30, 0x30, 0x30, 0x30, 0x30, 0x30, 0x30, 0x30, 0x30, 0x30, 0x30, 0x30, 0x30, 0x0D, 0x0A])).inLen.toNat - 3) / 2 - 2) ∧
    ((loaded (caps 32 7) 0 0 0 (bytes [0x3A, 0x30, 0x30, 0x30, 0x30, 0x30, 0x30, 0x30, 0x30, 0x30, 0x30, 0x30, 0x30, 0x30, 0x30, 0x30, 0x30, 0x30, 0x30, 0x0D, 0x0A])).params.wf ∧
      (loaded (caps 32 7) 0 0 0 (bytes [0x3A, 0x30, 0x30, 0x30, 0x30, 0x30, 0x30, 0x30, 0x30, 0x30, 0x30, 0x30, 0x30, 0x30, 0x30, 0x30, 0x30, 0x30, 0x30, 0x0D, 0x0A])).inLen.toNat ≤ 32 ∧
      AsciiFrame (loaded (caps 32 7) 0 0 0 (bytes [0x3A, 0x30, 0x30, 0x30, 0x30, 0x30, 0x30, 0x30, 0x30, 0x30, 0x30, 0x30, 0x30, 0x30, 0x30, 0x30, 0x30, 0x30, 0x30, 0x0D, 0x0A])).opnd ∧
      ((loaded (caps 32 7) 0 0 0 (bytes [0x3A, 0x30, 0x30, 0x30, 0x30, 0x30, 0x30, 0x30, 0x30, 0x30, 0x30, 0x30, 0x30, 0x30, 0x30, 0x30, 0x30, 0x30, 0x30, 0x0D, 0x0A])).inLen.toNat - 3) / 2 - 2 ≤ 7) ∧
    ((loaded (caps 7 7) 0 0 0 (bytes [0x3A, 0x30, 0x31, 0x66, 0x66, 0x0D, 0x0A])).params.wf ∧ (loaded (caps 7 7) 0 0 0 (bytes [0x3A, 0x30, 0x31, 0x66, 0x66, 0x0D, 0x0A])).inLen.toNat ≤ 7 ∧ AsciiFrame (loaded (caps 7 7) 0 0 0 (bytes [0x3A, 0x30, 0x31, 0x66, 0x66, 0x0D, 0x0A])).opnd ∧
      ((loaded (caps 7 7) 0 0 0 (bytes [0x3A, 0x30, 0x31, 0x66, 0x66, 0x0D, 0x0A])).inLen.toNat - 3) / 2 - 2 ≤ 7) :=
  ⟨by decide, ⟨by decide, by decide, not_frame (by decide +kernel)⟩,
    ⟨by decide, by decide +kernel, is_frame (by decide +kernel), by decide +kernel⟩,
    ⟨by decide, by decide +kernel, is_frame (by decide +kernel), by decide +kernel⟩,
    ⟨by decide, by decide, is_frame (by decide +kernel), by decide⟩⟩

theorem witness_ChecksumFlagsOnlyAfterDecode :
    (∃ t, exec .decfRtu (dflt 0 0 0 (bytes [0x01, 0x7E, 0x80])) = .next t ∧ t.err = 0#3) ∧
    (∃ t, exec .decfRtu (dflt 0 0 0 []) = .next t ∧ t.err ≠ 0#3) ∧ (∃ t, exec .pduenc7 State.reset = .next t) :=
  ⟨⟨_, rfl, by decide +kernel⟩, ⟨_, rfl, by decide⟩, ⟨_, rfl⟩⟩

theorem witness_CorruptedTrailerStillDelivers :
    (loaded (caps 8 7) 0 0 0 (bytes [0x11, 0x03, 0x00, 0x6B, 0x00, 0x03, 0x76, 0x86])).params.wf ∧
    (loaded (caps 8 7) 0 0 0 (bytes [0x11, 0x03, 0x00, 0x6B, 0x00, 0x03, 0x76, 0x86])).inLen = 8#16 ∧
    8 ≤ (loaded (caps 8 7) 0 0 0 (bytes [0x11, 0x03, 0x00, 0x6B, 0x00, 0x03, 0x76, 0x86])).params.inCap ∧
    (loaded (caps 8 7) 0 0 0 (bytes [0x11, 0x03, 0x00, 0x6B, 0x00, 0x03, 0x76, 0x86])).opnd =
      [0x11#8, 0x03#8, 0x00#8, 0x6B#8, 0x00#8, 0x03#8, 0x76#8, 0x86#8] := by decide

/-- Also the hypotheses of `MaskWriteAndFifoPdus`. -/
theorem witness_ReadRequestPdus : (sized 7 7 0xFFFF 0xFFFF 65535 0).params.wf ∧ (Instr.pduenc4, 0x04#8) ∈
    [(Instr.pduenc1, 0x01#8), (.pduenc2, 0x02#8), (.pduenc3, 0x03#8), (.pduenc4, 0x04#8)] := by decide

theorem witness_WriteSinglePdus :
    ((sized 7 7 0xFFFF 0 0 0).params.wf ∧ (sized 7 7 0xFFFF 0 0 0).a1 = 0#16) ∧
    ((sized 7 7 0xFFFF 1 0 0).params.wf ∧ (sized 7 7 0xFFFF 1 0 0).a1 ≠ 0#16) := by decide

theorem witness_CodeOnlyPdus : (sized 7 7 0 0 65535 0).params.wf ∧ (Instr.pduenc17, 0x11#8) ∈
    [(Instr.pduenc7, 0x07#8), (.pduenc11, 0x0B#8), (.pduenc12, 0x0C#8), (.pduenc17, 0x11#8)] := by decide

theorem witness_DiagnosticsPdu :
    ((sized 8 8 0 0 9 0).params.wf ∧ (sized 8 8 0 0 9 0).params.inCap < (sized 8 8 0 0 9 0).inLen.toNat) ∧
    ((sized 8 8 0 0 6 0).params.wf ∧ (sized 8 8 0 0 6 0).inLen.toNat ≤ (sized 8 8 0 0 6 0).params.inCap ∧ (sized 8 8 0 0 6 0).params.outCap < 3 + (sized 8 8 0 0 6 0).inLen.toNat) ∧
    ((sized 8 8 0 0 5 0).params.wf ∧ (sized 8 8 0 0 5 0).inLen.toNat ≤ (sized 8 8 0 0 5 0).params.inCap ∧ 3 + (sized 8 8 0 0 5 0).inLen.toNat ≤ (sized 8 8 0 0 5 0).params.outCap) := by decide

theorem witness_CoilsPackLowBitFirst : (packCoils [true])[0]? = some 0x01#8 := by decide

theorem witness_WriteCoilsCommand :
    ((sized 8 8 0 0 9 0).params.wf ∧ (sized 8 8 0 0 9 0).params.inCap < (sized 8 8 0 0 9 0).inLen.toNat) ∧
    ((sized 4096 300 0 0 2041 0).params.wf ∧ 2040 < (sized 4096 300 0 0 2041 0).inLen.toNat) ∧
    ((sized 4096 260 0 0 2040 0).params.wf ∧ (sized 4096 260 0 0 2040 0).inLen.toNat ≤ (sized 4096 260 0 0 2040 0).params.inCap ∧ (sized 4096 260 0 0 2040 0).inLen.toNat ≤ 2040 ∧ (sized 4096 260 0 0 2040 0).params.outCap < 6 + ((sized 4096 260 0 0 2040 0).inLen.toNat + 7) / 8) ∧
    ((sized 4096 261 0 0 2040 0).params.wf ∧ (sized 4096 261 0 0 2040 0).inLen.toNat ≤ (sized 4096 261 0 0 2040 0).params.inCap ∧ (sized 4096 261 0 0 2040 0).inLen.toNat ≤ 2040 ∧ 6 + ((sized 4096 261 0 0 2040 0).inLen.toNat + 7) / 8 ≤ (sized 4096 261 0 0 2040 0).params.outCap) := by decide

theorem witness_WriteRegistersCommand :
    ((sized 8 8 0 0 9 0).params.wf ∧ (sized 8 8 0 0 9 0).params.inCap < (sized 8 8 0 0 9 0).inLen.toNat) ∧
    ((sized 8 8 0 0 1 0).params.wf ∧ (sized 8 8 0 0 1 0).inLen.toNat % 2 = 1) ∧
    ((sized 512 512 0 0 256 0).params.wf ∧ 255 < (sized 512 512 0 0 256 0).inLen.toNat) ∧
    ((sized 512 259 0 0 254 0).params.wf ∧ (sized 512 259 0 0 254 0).inLen.toNat ≤ (sized 512 259 0 0 254 0).params.inCap ∧ (sized 512 259 0 0 254 0).inLen.toNat % 2 = 0 ∧ (sized 512 259 0 0 254 0).inLen.toNat ≤ 255 ∧ (sized 512 259 0 0 254 0).params.outCap < 6 + (sized 512 259 0 0 254 0).inLen.toNat) ∧
    ((sized 512 260 0 0 254 0).params.wf ∧ (sized 512 260 0 0 254 0).inLen.toNat ≤ (sized 512 260 0 0 254 0).params.inCap ∧ (sized 512 260 0 0 254 0).inLen.toNat % 2 = 0 ∧ (sized 512 260 0 0 254 0).inLen.toNat ≤ 255 ∧ 6 + (sized 512 260 0 0 254 0).inLen.toNat ≤ (sized 512 260 0 0 254 0).params.outCap) := by decide

theorem witness_ReadWriteRegistersCommand :
    ((sized 8 8 0 0 9 0).params.wf ∧ (sized 8 8 0 0 9 0).params.inCap < (sized 8 8 0 0 9 0).inLen.toNat) ∧
    ((sized 8 8 0 0 1 0).params.wf ∧ (sized 8 8 0 0 1 0).inLen.toNat % 2 = 1) ∧
    ((sized 512 512 0 0 256 0).params.wf ∧ 255 < (sized 512 512 0 0 256 0).inLen.toNat) ∧
    ((sized 512 263 0 0 254 0).params.wf ∧ (sized 512 263 0 0 254 0).inLen.toNat ≤ (sized 512 263 0 0 254 0).params.inCap ∧ (sized 512 263 0 0 254 0).inLen.toNat % 2 = 0 ∧ (sized 512 263 0 0 254 0).inLen.toNat ≤ 255 ∧ (sized 512 263 0 0 254 0).params.outCap < 10 + (sized 512 263 0 0 254 0).inLen.toNat) ∧
    ((sized 512 264 0 0 254 0).params.wf ∧ (sized 512 264 0 0 254 0).inLen.toNat ≤ (sized 512 264 0 0 254 0).params.inCap ∧ (sized 512 264 0 0 254 0).inLen.toNat % 2 = 0 ∧ (sized 512 264 0 0 254 0).inLen.toNat ≤ 255 ∧ 10 + (sized 512 264 0 0 254 0).inLen.toNat ≤ (sized 512 264 0 0 254 0).params.outCap) := by decide

theorem witness_ReadFileRecordCommand :
    ((sized 8 8 0 0 9 0).params.wf ∧ (sized 8 8 0 0 9 0).params.inCap < (sized 8 8 0 0 9 0).inLen.toNat) ∧
    ((sized 8 8 0 0 5 0).params.wf ∧ (sized 8 8 0 0 5 0).inLen.toNat % 6 ≠ 0) ∧
    ((sized 222 8 0 0 222 0).params.wf ∧ 36 < (sized 222 8 0 0 222 0).inLen.toNat / 6) ∧
    ((loaded (caps 7 8) 0 0 0 (bytes [0, 4, 0, 1, 0, 2])).opnd = [bytes [0, 4, 0, 1, 0, 2]].flatten ∧
      (∀ x ∈ [bytes [0, 4, 0, 1, 0, 2]], x.length = 6) ∧ 8 < 2 + 7 * [bytes [0, 4, 0, 1, 0, 2]].length) ∧
    ((loaded (caps 7 9) 0 0 0 (bytes [0, 4, 0, 1, 0, 2])).opnd = [bytes [0, 4, 0, 1, 0, 2]].flatten ∧
      2 + 7 * [bytes [0, 4, 0, 1, 0, 2]].length ≤ 9) := by decide

/-- The stream of V62, one sub-request of three words. -/
def oneSub : WriteSub :=
  { file := 4#16, record := 7#16, count := 3#16, data := bytes [0x06, 0xAF, 0x04, 0xBE, 0x10, 0x0D] }

/-- The operands of V62 with a given capacity of `OUT`. -/
def writeState (outCap : Nat) : State :=
  loaded (caps 16 outCap) 0 0 0 (bytes [0x00, 0x04, 0x00, 0x07, 0x00, 0x03, 0x06, 0xAF, 0x04, 0xBE, 0x10, 0x0D])

theorem writeState_stream (outCap : Nat) : IsWriteStream (writeState outCap).opnd [oneSub] :=
  (isWriteStream_of_writeSubs 12 (writeState 12).opnd _ (by decide +kernel) : IsWriteStream (writeState 12).opnd _)

/-- One sub-request of `k` words: `total-length` is `5 + 2k`. -/
def longSub (k : W16) : WriteSub := { file := 1#16, record := 1#16, count := k, data := List.replicate (2 * k.toNat) 0#8 }

/-- V74: the stream ends inside the data. -/
theorem witness_WriteFileRecordCommand_none :
    ¬ ∃ subs, IsWriteStream (dflt 0 0 0 (bytes [0x00, 0x04, 0x00, 0x07, 0x00, 0x03, 0x06, 0xAF, 0x04, 0xBE])).opnd subs := by
  rintro ⟨subs, h⟩
  have h2 := writeSubs_iff.2 h
  have h3 : writeSubs (dflt 0 0 0 (bytes [0x00, 0x04, 0x00, 0x07, 0x00, 0x03, 0x06, 0xAF, 0x04, 0xBE])).opnd.length
    (dflt 0 0 0 (bytes [0x00, 0x04, 0x00, 0x07, 0x00, 0x03, 0x06, 0xAF, 0x04, 0xBE])).opnd = none := by decide +kernel
  rw [h3] at h2
  cases h2

theorem witness_WriteFileRecordCommand_long :
    255 < writeTotal .absent [longSub 126#16] ∧ writeTotal .absent [longSub 125#16] = 255 ∧
    IsWriteStream ((([longSub 126#16]).map WriteSub.stream).flatten) [longSub 126#16] :=
  ⟨by decide, by decide, rfl, by intro u hu; rw [List.mem_singleton.1 hu]; exact List.length_replicate⟩

theorem witness_WriteFileRecordCommand :
    (IsWriteStream (writeState 12).opnd [oneSub] ∧ (writeState 12).params.wf ∧
      (writeState 12).inLen.toNat ≤ (writeState 12).params.inCap ∧ writeTotal .absent [oneSub] ≤ 255 ∧
      (writeState 12).params.outCap < 2 + writeTotal .absent [oneSub]) ∧
    (IsWriteStream (writeState 13).opnd [oneSub] ∧ (writeState 13).params.wf ∧
      2 + writeTotal .absent [oneSub] ≤ (writeState 13).params.outCap) :=
  ⟨⟨writeState_stream 12, by decide, by decide, by decide, by decide⟩, ⟨writeState_stream 13, by decide, by decide⟩⟩


theorem witness_ReadDeviceIdCommand :
    ((sized 7 7 256 0 0 0).params.wf ∧ 255 < (sized 7 7 256 0 0 0).a0.toNat) ∧
    ((sized 7 7 255 256 0 0).params.wf ∧ 255 < (sized 7 7 255 256 0 0).a1.toNat) ∧
    ((sized 7 7 255 255 0 0).params.wf ∧ (sized 7 7 255 255 0 0).a0.toNat ≤ 255 ∧ (sized 7 7 255 255 0 0).a1.toNat ≤ 255) := by decide

theorem witness_EmptyListsAreLegal :
    ((sized 7 10 0 0 0 0).params.wf ∧ 10 ≤ (sized 7 10 0 0 0 0).params.outCap ∧ (sized 7 10 0 0 0 0).inLen = 0#16) := by decide

theorem witness_XferCommand :
    ((sized 8 16 0 0 0 9).params.inCap < (sized 8 16 0 0 0 9).outLen.toNat) ∧
    ((sized 8 16 0 0 0 8).outLen.toNat ≤ (sized 8 16 0 0 0 8).params.inCap) := by decide

theorem witness_OnlyXferWritesTheOperandBuffer :
    (∃ t, exec .crc16 State.reset = .next t) ∧ Instr.crc16 ≠ .xfer ∧ ∃ t, exec .xfer State.reset = .next t :=
  ⟨⟨_, rfl⟩, by decide, ⟨_, rfl⟩⟩

/-- Also the hypotheses of `ArgExactlyForItsCauses` and `FramingExactlyForItsCauses`: V29, V34, V9G, V95 with equal
capacities, and a success. -/
theorem witness_ErrorsFollowThePriority :
    ((sized 8 16 248 0 0 0).params.wf ∧ argCause .encfRtu (sized 8 16 248 0 0 0) ∧
      ∃ t, exec .encfRtu (sized 8 16 248 0 0 0) = .next t) ∧
    ((sized 8 16 0 0 2 0).params.wf ∧ ¬ argCause .decfRtu (sized 8 16 0 0 2 0) ∧ framingCause .decfRtu (sized 8 16 0 0 2 0)) ∧
    (¬ argCause .xfer (sized 8 16 0 0 0 9) ∧ ¬ framingCause .xfer (sized 8 16 0 0 0 9) ∧ overflowCause .xfer (sized 8 16 0 0 0 9)) ∧
    (¬ argCause .xfer (sized 8 16 0 0 0 8) ∧ ¬ framingCause .xfer (sized 8 16 0 0 0 8) ∧ ¬ overflowCause .xfer (sized 8 16 0 0 0 8)) ∧
    ((sized 8 8 0 0 8 8).params.inCap = (sized 8 8 0 0 8 8).params.outCap ∧
      (sized 8 8 0 0 8 8).outLen.toNat ≤ (sized 8 8 0 0 8 8).params.outCap) := by
  refine ⟨⟨by decide, .inr (by decide), _, rfl⟩, ⟨by decide, ?_, ?_⟩, ⟨?_, ?_, ?_⟩, ⟨?_, ?_, ?_⟩, by decide⟩ <;>
    simp only [argCause, framingCause, overflowCause] <;> decide

theorem witness_ErrorResultIsUniform : ∃ t, exec .xfer (sized 8 16 0 0 0 9) = .next t ∧ t.err ≠ 0#3 := ⟨_, rfl, by decide⟩

/-- Two states with different registers and different bytes beyond `IN_LEN`. -/
theorem witness_ResultDependsOnlyOnListedSources :
    (sized 8 16 1 2 0 0).params.wf ∧ (sized 8 16 1 2 0 0).params = (sized 8 16 3 4 0 0).params ∧
    (∀ x ∈ sourcesOf .crc16, (sized 8 16 1 2 0 0).sameSource (sized 8 16 3 4 0 0) x) ∧
    (∃ t, exec .crc16 (sized 8 16 1 2 0 0) = .next t) ∧ ∃ t, exec .crc16 (sized 8 16 3 4 0 0) = .next t := by
  refine ⟨by decide, rfl, ?_, ⟨_, rfl⟩, ⟨_, rfl⟩⟩
  simp only [sourcesOf, List.mem_singleton, forall_eq]
  exact ⟨rfl, fun _ i hi => absurd hi (by simp [sized])⟩

theorem witness_CommandsAreRepeatable :
    (∃ t, exec .encfRtu (sized 8 16 248 0 0 0) = .next t ∧ t.err ≠ 0#3) ∧
    ∃ t, exec .xfer (sized 8 16 0 0 0 8) = .next t ∧ t.err = 0#3 := ⟨⟨_, rfl, by decide⟩, ⟨_, rfl, by decide +kernel⟩⟩

theorem witness_RtuFrameSurvivesTheBlock :
    ((sized 8 8 247 0 5 0).params.wf ∧ (sized 8 8 247 0 5 0).inLen.toNat + 3 ≤ (sized 8 8 247 0 5 0).params.inCap ∧ (sized 8 8 247 0 5 0).inLen.toNat + 3 ≤ (sized 8 8 247 0 5 0).params.outCap ∧ (sized 8 8 247 0 5 0).a0.toNat ≤ 247) := by decide

theorem witness_AsciiFrameSurvivesTheBlock :
    ((sized 7 7 247 0 0 0).params.wf ∧ 2 * (sized 7 7 247 0 0 0).inLen.toNat + 7 ≤ (sized 7 7 247 0 0 0).params.inCap ∧ 2 * (sized 7 7 247 0 0 0).inLen.toNat + 7 ≤ (sized 7 7 247 0 0 0).params.outCap ∧ (sized 7 7 247 0 0 0).a0.toNat ≤ 247) := by decide

theorem witness_TransferThenFrame :
    ((sized 8 8 0 0 0 5).params.wf ∧ (sized 8 8 0 0 0 5).outLen.toNat ≤ (sized 8 8 0 0 0 5).params.inCap ∧ (sized 8 8 0 0 0 5).outLen.toNat + 3 ≤ (sized 8 8 0 0 0 5).params.outCap) ∧
    ((sized 8 7 0 0 0 0).params.wf ∧ 2 * (sized 8 7 0 0 0 0).outLen.toNat + 7 ≤ (sized 8 7 0 0 0 0).params.outCap) ∧
    (247#16).toNat ≤ 247 := by decide

theorem witness_ForgottenSlaveAddress :
    ((sized 7 8 247 0 0 0).params.wf ∧ 8 ≤ (sized 7 8 247 0 0 0).params.outCap ∧ (sized 7 8 247 0 0 0).a0.toNat ≤ 247) ∧
    ((sized 7 8 248 0 0 0).params.wf ∧ 8 ≤ (sized 7 8 248 0 0 0).params.outCap ∧ 247 < (sized 7 8 248 0 0 0).a0.toNat) := by decide

end Sys2Proof.Tests
end

section
/-! PROOFS. What a step and a command can do to the state, and the family of statements about the state. -/

namespace Sys2Proof.Machine

variable {s t : State}

/-! ## The invariant, operation by operation -/

/-- The invariant does not speak of `CMD`. -/
theorem State.Inv.setCmd (h : s.Inv) (w : W16) : (s.setCmd w).Inv := h

/-- The invariant does not speak of what the host does next. -/
theorem State.Inv.setPending (h : s.Inv) (l : List HostAction) : (s.setPending l).Inv := h

theorem State.resetWith_inv {p : Params} (hp : p.wf) : (State.resetWith p).Inv :=
  ⟨hp, .nil, nofun, rfl, Nat.zero_le _, List.mem_cons_self, fun _ => ⟨rfl, rfl, rfl, rfl⟩⟩

theorem State.Inv.resetEvent (h : s.Inv) : s.resetEvent.Inv := State.resetWith_inv h.1

theorem statusLegal_error (e : CmdError) : statusLegal (statusError e) := by cases e <;> decide

theorem State.Inv.raise (h : s.Inv) (e : CmdError) : (s.raise e).Inv := by
  obtain ⟨hp, hwf, hin, -⟩ := h
  exact ⟨hp, hwf, hin, rfl, Nat.zero_le _, statusLegal_error e, fun _ => ⟨rfl, rfl, rfl, rfl⟩⟩

theorem ResultRecord.Successful.legal {r : ResultRecord} (h : r.Successful) : statusLegal r.status := by
  rcases h with h | h | h <;> rw [h] <;> decide

theorem State.deliver_err {r : ResultRecord} (h : r.Successful) : (s.deliver r).err = 0#3 := by
  rcases h with h | h | h <;> rw [State.err, State.deliver_status, h] <;> decide

theorem State.Inv.deliver (h : s.Inv) {r : ResultRecord} (hr : r.Successful)
    (hfit : r.out.length ≤ s.params.outCap) : (s.deliver r).Inv := by
  obtain ⟨hp, hwf, hin, -⟩ := h
  have hlen : (s.deliver r).outLen.toNat = r.out.length :=
    Nat.mod_eq_of_lt (by have := hp.2.2; omega)
  refine ⟨hp, hwf, hin, ?_, hlen ▸ hfit, hr.legal, fun he => absurd (State.deliver_err hr) he⟩
  rw [hlen, State.deliver_outMem, Memory.keys_writeSeq_nil]

theorem State.Inv.transfer (h : s.Inv) (hfit : s.outLen.toNat ≤ s.params.inCap) : s.transfer.Inv := by
  obtain ⟨hp, hwf, hin, hkeys, hcap, -, -⟩ := h
  refine ⟨hp, Memory.wf_writeSeq hwf _ _, fun c hc => ?_, hkeys, hcap, List.mem_cons_self, fun he => absurd rfl he⟩
  rcases Memory.mem_writeSeq hc with hold | ⟨-, hnew⟩
  · exact hin c hold
  · rw [State.produced_length] at hnew
    exact (Nat.zero_add s.outLen.toNat ▸ hnew).trans_le hfit

/-- A host write of a byte of `IN` inside the buffer keeps the invariant. -/
theorem State.Inv.writeIn (h : s.Inv) {i : Nat} (hi : i < s.params.inCap) (v : Byte) :
    State.Inv { s with inMem := Memory.write s.inMem i v } := by
  obtain ⟨hp, hwf, hin, hrest⟩ := h
  refine ⟨hp, Memory.wf_write hwf i v, fun c hc => ?_, hrest⟩
  rcases Memory.mem_write hc with hold | rfl
  · exact hin c hold
  · exact hi

/-- Every command keeps the invariant. -/
theorem State.Inv.exec {i : Instr} (h : s.Inv) (he : exec i s = .next t) : t.Inv := by
  rcases exec_cases he with ⟨e, rfl⟩ | ⟨r, hr, hfit, rfl, -⟩ | ⟨-, hfit, rfl⟩
  · exact h.raise e
  · exact h.deliver hr hfit
  · exact h.transfer hfit

/-! ## What a command keeps -/

theorem State.deliver_keeps (s : State) (r : ResultRecord) : s.KeepsOperands (s.deliver r) :=
  ⟨rfl, rfl, rfl, rfl, rfl, rfl, fun _ => rfl, rfl, rfl, rfl⟩

/-- No command but `XFER` changes an operand (`10_state.md` R24). -/
theorem exec_keepsOperands {i : Instr} (hi : i ≠ .xfer) (h : exec i s = .next t) : s.KeepsOperands t := by
  rcases exec_cases h with ⟨e, rfl⟩ | ⟨r, -, -, rfl, -⟩ | ⟨hx, -⟩
  · exact (s.raise_endsIn e).keeps
  · exact s.deliver_keeps r
  · exact absurd hx hi

/-- What no command changes, `XFER` included: `A[*]`, `CMD`, the parameters, and what belongs to the host. -/
theorem exec_keepsRegisters {i : Instr} (h : exec i s = .next t) :
    t.a0 = s.a0 ∧ t.a1 = s.a1 ∧ t.a2 = s.a2 ∧ t.a3 = s.a3 ∧ t.cmd = s.cmd ∧ t.params = s.params ∧
      t.pending = s.pending ∧ t.readBus = s.readBus := by
  rcases exec_cases h with ⟨e, rfl⟩ | ⟨r, -, -, rfl, -⟩ | ⟨-, -, rfl⟩ <;>
    exact ⟨rfl, rfl, rfl, rfl, rfl, rfl, rfl, rfl⟩

/-! ## What one step can do -/

theorem step_idle (h : s.pending = []) : step s = .next s := by
  rw [step, hostStep, h]

theorem step_cons {a : HostAction} {rest : List HostAction} (h : s.pending = a :: rest) :
    step s = hostAct a (s.setPending rest) := by
  rw [step, hostStep, h]

theorem issue_instr {w : W16} {i : Instr} (h : decode w = .instr i) (s : State) :
    issue w s = exec i (s.setCmd w) := by
  rw [issue, h]

/-- The states a host action can leave (`10_state.md` R24), an equation per kind of action; a command leaves what
`exec` does. -/
inductive HostLeaves (s : State) : HostAction → State → Prop
  | writeA0 (v : W16) : HostLeaves s (.writeReg .a0 v) { s with a0 := v }
  | writeA1 (v : W16) : HostLeaves s (.writeReg .a1 v) { s with a1 := v }
  | writeA2 (v : W16) : HostLeaves s (.writeReg .a2 v) { s with a2 := v }
  | writeA3 (v : W16) : HostLeaves s (.writeReg .a3 v) { s with a3 := v }
  | writeInLen (v : W16) : HostLeaves s (.writeReg .inLen v) { s with inLen := v }
  | ignoreReg {r : Reg} (hr : r ∈ [Reg.r0, .r1, .r2, .status, .outLen]) (v : W16) : HostLeaves s (.writeReg r v) s
  | runCommand {w : W16} {i : Instr} {t : State} (hw : decode w = .instr i) (h : exec i (s.setCmd w) = .next t) :
    HostLeaves s (.writeReg .cmd w) t
  | illegalWord {w : W16} (hw : decode w = .illegal) : HostLeaves s (.writeReg .cmd w) ((s.setCmd w).raise .illegalCmd)
  | unsupportedWord {w : W16} (hw : decode w = .unsupportedFc) :
    HostLeaves s (.writeReg .cmd w) ((s.setCmd w).raise .unsupportedFc)
  | writeIn {i : Nat} (hi : i < s.params.inCap) (v : Byte) :
    HostLeaves s (.writeByte .inBuf i v) { s with inMem := Memory.write s.inMem i v }
  | ignoreOut {i : Nat} (hi : i < s.params.outCap) (v : Byte) : HostLeaves s (.writeByte .outBuf i v) s
  | readReg (r : Reg) : HostLeaves s (.readReg r) { s with readBus := s.regValue r }
  | readByte {b : Buffer} {i : Nat} (hi : i < s.params.cap b) :
    HostLeaves s (.readByte b i) { s with readBus := zext16 (s.readByte b i) }
  | skipNone (n : Nat) (h : s.err = 0#3) : HostLeaves s (.skipIfErr n) s
  | skip (n : Nat) (h : s.err ≠ 0#3) : HostLeaves s (.skipIfErr n) (s.setPending (s.pending.drop n))
  | reset : HostLeaves s .reset s.resetEvent

theorem issue_leaves {w : W16} (h : issue w s = .next t) : HostLeaves s (.writeReg .cmd w) t := by
  unfold issue at h
  split at h
  case h_1 i hw => exact .runCommand hw h
  case h_2 hw => cases h; exact .illegalWord hw
  case h_3 hw => cases h; exact .unsupportedWord hw

theorem hostWriteReg_leaves {r : Reg} {v : W16} (h : hostWriteReg r v s = .next t) :
    HostLeaves s (.writeReg r v) t := by
  cases r with
  | a0 => cases h; exact .writeA0 v
  | a1 => cases h; exact .writeA1 v
  | a2 => cases h; exact .writeA2 v
  | a3 => cases h; exact .writeA3 v
  | inLen => cases h; exact .writeInLen v
  | cmd => exact issue_leaves h
  | status | outLen | r0 | r1 | r2 => cases h; exact .ignoreReg (by decide) v

theorem hostWriteByte_leaves {b : Buffer} {i : Nat} {v : Byte} (h : hostWriteByte b i v s = .next t) :
    HostLeaves s (.writeByte b i v) t := by
  unfold hostWriteByte at h
  split at h
  · cases b with
    | inBuf => cases h; exact .writeIn ‹_› v
    | outBuf => cases h; exact .ignoreOut ‹_› v
  · cases h

theorem hostReadByte_leaves {b : Buffer} {i : Nat} (h : hostReadByte b i s = .next t) :
    HostLeaves s (.readByte b i) t := by
  unfold hostReadByte at h
  split at h
  · cases h; exact .readByte ‹_›
  · cases h

theorem hostAct_leaves {a : HostAction} (h : hostAct a s = .next t) : HostLeaves s a t := by
  cases a with
  | writeReg r v => exact hostWriteReg_leaves h
  | readReg r => cases h; exact .readReg r
  | writeByte b i v => exact hostWriteByte_leaves h
  | readByte b i => exact hostReadByte_leaves h
  | skipIfErr n =>
    simp only [hostAct, Host.Outcome.next.injEq] at h
    split at h
    · subst h; exact .skipNone n ‹_›
    · subst h; exact .skip n ‹_›
  | reset => cases h; exact .reset

/-- What a step can do: nothing where the host has stopped, or what the next host action does. -/
theorem step_cases (h : step s = .next t) :
    (s.pending = [] ∧ t = s) ∨ ∃ a rest, s.pending = a :: rest ∧ HostLeaves (s.setPending rest) a t := by
  cases hp : s.pending with
  | nil =>
    rw [step_idle hp] at h
    cases h
    exact .inl ⟨rfl, rfl⟩
  | cons a rest =>
    rw [step_cons hp] at h
    exact .inr ⟨a, rest, rfl, hostAct_leaves h⟩

/-! ## The machine's invariant and its operand registers -/

/-- Every host action keeps the invariant. -/
theorem State.Inv.hostAct {a : HostAction} (h : s.Inv) (hl : HostLeaves s a t) : t.Inv := by
  cases hl with
  | writeA0 | writeA1 | writeA2 | writeA3 | writeInLen | ignoreReg | ignoreOut | readReg | readByte | skipNone | skip =>
    exact h
  | runCommand _ he => exact (h.setCmd _).exec he
  | illegalWord | unsupportedWord => exact (h.setCmd _).raise _
  | writeIn hi v => exact h.writeIn hi v
  | reset => exact h.resetEvent

/-- Settles O12: every operation a step is made of keeps the invariant. -/
theorem everyStepKeepsInvariant : Obligations.EveryStepKeepsInvariant := by
  intro s t hs h
  rcases step_cases h with ⟨-, rfl⟩ | ⟨a, rest, -, hl⟩
  · exact hs
  · exact (hs.setPending rest).hostAct hl

/-- Settles O11. -/
theorem resetMeetsInvariant : Obligations.ResetMeetsInvariant :=
  ⟨State.resetWith_inv (by decide), fun _ => State.resetWith_inv⟩

/-- Settles O45, from the three ends of a command. -/
theorem onlyXferWritesTheOperandBuffer : Obligations.OnlyXferWritesTheOperandBuffer :=
  fun _ _ _ h => ⟨fun hi => exec_keepsOperands hi h, exec_keepsRegisters h⟩

theorem HostLeaves.params {a : HostAction} (h : HostLeaves s a t) : t.params = s.params := by
  cases h with
  | runCommand _ he =>
    obtain ⟨-, -, -, -, -, hp, -⟩ := exec_keepsRegisters he
    exact hp
  | _ => rfl

/-- A host action other than reset changes `A[i]` only where it writes it (`10_state.md` R11, R24). -/
theorem HostLeaves.operands {a : HostAction} (h : HostLeaves s a t) (hr : a ≠ .reset) :
    ((∀ v, a ≠ .writeReg .a0 v) → t.a0 = s.a0) ∧ ((∀ v, a ≠ .writeReg .a1 v) → t.a1 = s.a1) ∧
      ((∀ v, a ≠ .writeReg .a2 v) → t.a2 = s.a2) ∧ ((∀ v, a ≠ .writeReg .a3 v) → t.a3 = s.a3) := by
  cases h with
  | writeA0 v => exact ⟨fun hv => absurd rfl (hv v), fun _ => rfl, fun _ => rfl, fun _ => rfl⟩
  | writeA1 v => exact ⟨fun _ => rfl, fun hv => absurd rfl (hv v), fun _ => rfl, fun _ => rfl⟩
  | writeA2 v => exact ⟨fun _ => rfl, fun _ => rfl, fun hv => absurd rfl (hv v), fun _ => rfl⟩
  | writeA3 v => exact ⟨fun _ => rfl, fun _ => rfl, fun _ => rfl, fun hv => absurd rfl (hv v)⟩
  | runCommand _ he =>
    obtain ⟨h0, h1, h2, h3, -⟩ := exec_keepsRegisters he
    exact ⟨fun _ => h0, fun _ => h1, fun _ => h2, fun _ => h3⟩
  | reset => exact absurd rfl hr
  | _ => exact ⟨fun _ => rfl, fun _ => rfl, fun _ => rfl, fun _ => rfl⟩

/-- Settles O13, from what each host action does. -/
theorem onlyTheHostChangesOperandRegisters : Obligations.OnlyTheHostChangesOperandRegisters := by
  intro s t h
  rcases step_cases h with ⟨-, rfl⟩ | ⟨a, rest, hp, hl⟩
  · exact ⟨rfl, fun _ => ⟨fun _ => rfl, fun _ => rfl, fun _ => rfl, fun _ => rfl⟩⟩
  · simp only [hp, List.head?_cons, ne_eq, Option.some.injEq]
    exact ⟨hl.params, hl.operands⟩

/-! ## Steps that access the block -/

/-- Settles O5. -/
theorem stepRunsTheDecodedCommand : Obligations.StepRunsTheDecodedCommand := by
  have hrun (s : State) (w : W16) (i : Instr) (rest : List HostAction)
      (hp : s.pending = .writeReg .cmd w :: rest) (hw : decode w = .instr i) :
      step s = exec i { s with cmd := w, pending := rest } := by
    rw [step_cons hp]
    exact issue_instr hw _
  refine ⟨hrun, fun s w i hw => ?_⟩
  have hword : BitVec.ofNat 16 (w.toNat % 2 ^ 16) = w := by
    rw [Nat.mod_eq_of_lt w.isLt, BitVec.ofNat_toNat, BitVec.setWidth_eq]
  exact hrun (s.withFetchWord 16 w.toNat) w i s.pending (by rw [State.withFetchWord, hword]; rfl) hw

theorem hostWriteReg_readOnly {r : Reg} (hr : r ∈ [Reg.r0, .r1, .r2, .status, .outLen]) (v : W16) (s : State) :
    hostWriteReg r v s = .next s := by
  simp only [List.mem_cons, List.not_mem_nil, or_false] at hr
  rcases hr with rfl | rfl | rfl | rfl | rfl <;> rfl

theorem hostWriteByte_in (s : State) {i : Nat} (hi : i < s.params.inCap) (v : Byte) :
    hostWriteByte .inBuf i v s = .next { s with inMem := Memory.write s.inMem i v } := if_pos hi

theorem hostWriteByte_out (s : State) {i : Nat} (hi : i < s.params.outCap) (v : Byte) :
    hostWriteByte .outBuf i v s = .next s := if_pos hi

theorem hostReadByte_inside {b : Buffer} {i : Nat} (hi : i < s.params.cap b) :
    hostReadByte b i s = .next { s with readBus := zext16 (s.readByte b i) } := if_pos hi

/-- A byte of `IN` after a host write of one byte. -/
theorem State.readByte_writeIn (s : State) (i j : Nat) (v : Byte) (l : List HostAction) :
    State.readByte { s with inMem := Memory.write s.inMem i v, pending := l } .inBuf j =
      if j = i then v else s.readByte .inBuf j := by
  simp only [State.readByte, State.mem, State.epoch, Memory.read?_write]
  split <;> rfl

/-- Settles O6: each clause is the equation of one host write. -/
theorem hostWritesReachOnlyWritableElements : Obligations.HostWritesReachOnlyWritableElements := by
  intro s rest
  refine ⟨fun v hp => step_cons hp, fun v hp => step_cons hp, fun v hp => step_cons hp, fun v hp => step_cons hp,
    fun v hp => step_cons hp, fun r v hr hp => (step_cons hp).trans (hostWriteReg_readOnly hr v _),
    fun i v hi hp => (step_cons hp).trans (hostWriteByte_out (s.setPending rest) hi v), fun i v hi hp => ?_⟩
  refine ⟨_, (step_cons hp).trans (hostWriteByte_in (s.setPending rest) hi v), ?_, fun j hj => ?_, rfl⟩
  · exact (s.readByte_writeIn i i v rest).trans (if_pos rfl)
  · exact (s.readByte_writeIn i j v rest).trans (if_neg hj)

theorem zext16_toNat (b : Byte) : (zext16 b).toNat = b.toNat := by
  have := b.isLt
  simp only [zext16, BitVec.toNat_setWidth]
  omega

/-- A step that reads a buffer byte leaves it, widened, in `readBus`. -/
theorem step_readByte {b : Buffer} {i : Nat} {rest : List HostAction} (hi : i < s.params.cap b)
    (hp : s.pending = .readByte b i :: rest) :
    ∃ t, step s = .next t ∧ t.readBus.toNat = (s.readByte b i).toNat ∧
      t = { s with pending := rest, readBus := t.readBus } :=
  ⟨_, (step_cons hp).trans (hostReadByte_inside hi), by rw [zext16_toNat, State.setPending_readByte], rfl⟩

/-- Settles O7. -/
theorem hostReadsChangeNothing : Obligations.HostReadsChangeNothing := by
  intro s rest
  refine ⟨fun r hp => ?_, fun i hi hp => step_readByte hi hp, fun i hi hp => step_readByte hi hp⟩
  rw [step_cons hp]
  cases r <;> rfl

/-! ## `STATUS` after a command -/

/-- Everything a command's own checks can deliver satisfies `P`. -/
def Answers (P : ResultRecord → Prop) (c : Except CmdError ResultRecord) : Prop := ∀ r, c = .ok r → P r

section
variable {P : ResultRecord → Prop}

theorem Answers.error (e : CmdError) : Answers P (.error e) := nofun

theorem Answers.ok {r : ResultRecord} (h : P r) : Answers P (.ok r) := by
  rintro _ ⟨⟩; exact h

theorem Answers.ite {c : Prop} [Decidable c] {x y : Except CmdError ResultRecord} (hx : Answers P x)
    (hy : Answers P y) : Answers P (if c then x else y) := by
  split <;> assumption

theorem Answers.withOpnd {k : List Byte → Except CmdError ResultRecord} (h : ∀ B, Answers P (k B)) :
    Answers P (s.withOpnd k) := .ite (.error _) (h _)

theorem Answers.withWords {B : List Byte} {c : Except CmdError ResultRecord} (h : Answers P c) :
    Answers P (withWords B c) := .ite (.error _) (.ite (.error _) h)

end

/-- `STATUS` of a success (`10_state.md` R15): a `DECF` compares the two checksums it leaves in `R[0]` and `R[1]`. -/
def successStatus (i : Instr) (r0 r1 : W16) : W16 :=
  if i = .decfRtu ∨ i = .decfAscii then statusDecoded (decide (r0 = r1)) else statusSuccess

/-- The record's `STATUS` is that of a success of the command, for the checksums it delivers. -/
def ResultRecord.StatusFits (i : Instr) (r : ResultRecord) : Prop := r.status = successStatus i r.r0 r.r1

/-- A decoder whose verdict compares the two checksums, where widening them to a register loses nothing. -/
theorem Answers.decoded {w : Nat} {widen : BitVec w → W16} (hinj : ∀ a b, widen a = widen b ↔ a = b) {i : Instr}
    (hi : i = .decfRtu ∨ i = .decfAscii) {d : Option (DecodedFrame w)}
    (hd : ∀ f ∈ d, f.ok = decide (f.computed = f.found)) :
    Answers (ResultRecord.StatusFits i) (decodedResult widen d) := by
  cases d with
  | none => exact .error _
  | some f =>
    have hok : f.ok = decide (widen f.computed = widen f.found) :=
      (hd f rfl).trans (decide_eq_decide.2 (hinj _ _).symm)
    exact .ok ((congrArg statusDecoded hok).trans (if_pos hi).symm)

/-- The verdict of `dec_rtu` compares the two checksums (`42_frame_decode.md` R140). -/
theorem decRtu_ok (F : List Byte) : ∀ f ∈ decRtu F, f.ok = decide (f.computed = f.found) := by
  intro f hf
  simp only [decRtu, Option.mem_def] at hf
  split at hf
  · cases hf
  · cases hf; rfl

/-- The verdict of `dec_ascii` compares the two checksums (`42_frame_decode.md` R143). -/
theorem decAscii_ok (F : List Byte) : ∀ f ∈ decAscii F, f.ok = decide (f.computed = f.found) := by
  intro f hf
  simp only [decAscii, Option.mem_def] at hf
  split at hf
  · split at hf
    · cases hf
    · cases hf; rfl
  · cases hf

/-- Every command but `XFER` ends in `complete`, of an error or of a record whose `STATUS` is that of its success. -/
theorem exec_answers_statusFits {i : Instr} (h : i ≠ .xfer) (s : State) :
    ∃ c, exec i s = .next (s.complete c) ∧ Answers (ResultRecord.StatusFits i) c := by
  cases i with
  | xfer => exact absurd rfl h
  | crc16 | lrc8 => exact ⟨_, rfl, .withOpnd fun _ => .ok rfl⟩
  | encfRtu | encfAscii => exact ⟨_, rfl, .withOpnd fun _ => .ite (.error _) (.ok rfl)⟩
  | decfRtu => exact ⟨_, rfl, .withOpnd fun F => .decoded (fun _ _ => .rfl) (.inl rfl) (decRtu_ok F)⟩
  | decfAscii => exact ⟨_, rfl, .withOpnd fun F => .decoded zext16_inj (.inr rfl) (decAscii_ok F)⟩
  | pduenc8 => exact ⟨_, rfl, .withOpnd fun _ => .ok rfl⟩
  | pduenc15 => exact ⟨_, rfl, .withOpnd fun _ => .ite (.error _) (.ok rfl)⟩
  | pduenc16 | pduenc23 => exact ⟨_, rfl, .withOpnd fun _ => .withWords (.ok rfl)⟩
  | pduenc20 => exact ⟨_, rfl, .withOpnd fun _ => .ite (.error _) (.ite (.error _) (.ok rfl))⟩
  | pduenc21 =>
    refine ⟨_, rfl, .withOpnd fun B => ?_⟩
    split
    · exact .error _
    · exact .ite (.error _) (.ok rfl)
  | pduenc43 => exact ⟨_, rfl, .ite (.error _) (.ok rfl)⟩
  | _ => exact ⟨_, rfl, .ok rfl⟩

/-- `STATUS` after any command: an error's, or that of a success with the checksums left in `R[0]` and `R[1]`. -/
theorem exec_status {i : Instr} (h : exec i s = .next t) :
    (∃ e, t.status = statusError e) ∨ t.status = successStatus i t.r0 t.r1 := by
  by_cases hx : i = .xfer
  · subst hx
    rcases exec_cases h with ⟨e, rfl⟩ | ⟨r, -, -, -, hx⟩ | ⟨-, -, rfl⟩
    · exact .inl ⟨e, rfl⟩
    · exact absurd rfl hx
    · exact .inr rfl
  · obtain ⟨c, hc, hfit⟩ := exec_answers_statusFits hx s
    rw [hc] at h
    cases h
    rcases s.complete_cases c with ⟨e, -, h⟩ | ⟨r, -, -, h⟩ | ⟨r, hr, -, h⟩ <;> rw [h]
    · exact .inl ⟨e, rfl⟩
    · exact .inl ⟨.overflow, rfl⟩
    · exact .inr (hfit r hr)

theorem flags_of_error {e : CmdError} (h : t.status = statusError e) :
    t.err ≠ 0#3 ∧ t.csumOk = false ∧ t.csumBad = false ∧ t.status.toNat < 32 := by
  rw [State.err, State.csumOk, State.csumBad, h]
  cases e <;> decide

theorem flags_of_success (h : t.status = statusSuccess) :
    t.csumOk = false ∧ t.csumBad = false ∧ t.err = 0#3 ∧ t.status.toNat < 32 := by
  rw [State.err, State.csumOk, State.csumBad, h]
  decide

theorem flags_of_decoded {ok : Bool} (h : t.status = statusDecoded ok) :
    t.err = 0#3 ∧ t.csumOk = ok ∧ t.csumBad = !ok ∧ t.status.toNat < 32 := by
  rw [State.err, State.csumOk, State.csumBad, h]
  cases ok <;> decide

/-- Settles O29, from the values `STATUS` takes. -/
theorem checksumFlagsOnlyAfterDecode : Obligations.ChecksumFlagsOnlyAfterDecode := by
  intro i s t h
  rcases exec_status h with ⟨e, he⟩ | hs
  · obtain ⟨herr, hok, hbad, hlt⟩ := flags_of_error he
    exact ⟨fun _ h0 => absurd h0 herr, fun _ => ⟨hok, hbad⟩, hlt⟩
  · by_cases hd : i = .decfRtu ∨ i = .decfAscii
    · obtain ⟨herr, hok, hbad, hlt⟩ := flags_of_decoded (hs.trans (if_pos hd))
      refine ⟨fun _ _ => ⟨hok, hbad.trans decide_not.symm⟩, fun hn => ?_, hlt⟩
      rcases hn with ⟨hr, ha⟩ | hne
      · exact absurd hd (not_or.2 ⟨hr, ha⟩)
      · exact absurd herr hne
    · obtain ⟨hok, hbad, -, hlt⟩ := flags_of_success (hs.trans (if_neg hd))
      exact ⟨fun hd' => absurd hd' hd, fun _ => ⟨hok, hbad⟩, hlt⟩

/-! ## What a result record depends on -/

theorem encodeFrame_congr {s s' : State} (hp : s.params = s'.params) (h0 : s.a0 = s'.a0)
    (hB : s.sameSource s' .stream) (enc : Byte → List Byte → List Byte) (checksum : List Byte → W16) :
    encodeFrame enc checksum s = encodeFrame enc checksum s' := by
  rw [encodeFrame, encodeFrame, State.withOpnd_congr hp hB, h0]

/-- From states that agree on the sources of a command its own checks answer the same (`30_encoding.md` R71). -/
theorem exec_sameAnswer {i : Instr} {s s' : State} (hx : i ≠ .xfer) (hp : s.params = s'.params)
    (h : ∀ x ∈ sourcesOf i, s.sameSource s' x) :
    ∃ c, exec i s = .next (s.complete c) ∧ exec i s' = .next (s'.complete c) := by
  have h0 : Source.a0 ∈ sourcesOf i → s.a0 = s'.a0 := h .a0
  have h1 : Source.a1 ∈ sourcesOf i → s.a1 = s'.a1 := h .a1
  have h2 : Source.a2 ∈ sourcesOf i → s.a2 = s'.a2 := h .a2
  have hB (hm : Source.stream ∈ sourcesOf i) : ∀ k, s.withOpnd k = s'.withOpnd k :=
    State.withOpnd_congr hp (h .stream hm)
  cases i with
  | xfer => exact absurd rfl hx
  | crc16 | lrc8 | decfRtu | decfAscii | pduenc20 => exact ⟨_, rfl, by rw [hB (by decide)]; rfl⟩
  | encfRtu | encfAscii =>
    exact ⟨_, rfl, by rw [encodeFrame_congr hp (h0 (by decide)) (h .stream (by decide))]; rfl⟩
  | pduenc1 | pduenc2 | pduenc3 | pduenc4 | pduenc5 | pduenc6 | pduenc43 =>
    exact ⟨_, rfl, by rw [h0 (by decide), h1 (by decide)]; rfl⟩
  | pduenc7 | pduenc11 | pduenc12 | pduenc17 => exact ⟨_, rfl, rfl⟩
  | pduenc8 | pduenc15 | pduenc16 => exact ⟨_, rfl, by rw [hB (by decide), h0 (by decide)]; rfl⟩
  | pduenc21 => exact ⟨_, rfl, by rw [hB (by decide), hp]; rfl⟩
  | pduenc22 => exact ⟨_, rfl, by rw [h0 (by decide), h1 (by decide), h2 (by decide)]; rfl⟩
  | pduenc23 => exact ⟨_, rfl, by rw [hB (by decide), h0 (by decide), h1 (by decide), h2 (by decide)]; rfl⟩
  | pduenc24 => exact ⟨_, rfl, by rw [h0 (by decide)]; rfl⟩

/-- The end of a command with one answer leaves one result record, whatever state it ends in. -/
theorem State.complete_sameResult {s s' : State} (hw : s.params.wf) (hp : s.params = s'.params)
    (c : Except CmdError ResultRecord) :
    (s.complete c).result = (s'.complete c).result ∧ (s.complete c).outLen = (s'.complete c).outLen := by
  cases c with
  | error e => exact ⟨rfl, rfl⟩
  | ok r =>
    by_cases hfit : s.params.outCap < r.out.length
    · rw [s.complete_overflow hfit, s'.complete_overflow (hp ▸ hfit)]
      exact ⟨rfl, rfl⟩
    · have hlen : r.out.length < 65536 := by have := hw.2.2; omega
      rw [s.complete_ok (by omega), s'.complete_ok (by rw [← hp]; omega)]
      exact ⟨(s.deliver_delivers r hlen).result.trans (s'.deliver_delivers r hlen).result.symm, rfl⟩

/-- Settles O50: one answer of the command's checks, so one result record. -/
theorem resultDependsOnlyOnListedSources : Obligations.ResultDependsOnlyOnListedSources := by
  intro i s s' t t' hx hw hp hsrc h h'
  obtain ⟨c, hc, hc'⟩ := exec_sameAnswer hx hp hsrc
  rw [hc] at h
  rw [hc'] at h'
  cases h
  cases h'
  exact State.complete_sameResult hw hp c

end Sys2Proof.Machine
end

section
/-! PROOFS. The same command issued twice (`20_memory.md` R49). -/

namespace Sys2Proof.Machine

variable {s t : State}

/-- States with the same operands agree on every source a command can read. -/
theorem State.KeepsOperands.sameSource (h : s.KeepsOperands t) (x : Source) : s.sameSource t x := by
  cases x with
  | a0 => exact h.a0.symm
  | a1 => exact h.a1.symm
  | a2 => exact h.a2.symm
  | stream => exact ⟨h.inLen.symm, fun _ i _ => (h.inByte i).symm⟩

/-- A command other than `XFER`, run again on what it left, leaves the same result record. -/
theorem exec_twice_result {i : Instr} {u : State} (hx : i ≠ .xfer) (hw : s.params.wf) (h : exec i s = .next t)
    (h' : exec i t = .next u) : u.result = t.result := by
  have hk := exec_keepsOperands hx h
  obtain ⟨hres, -⟩ := resultDependsOnlyOnListedSources i s t t u hx hw hk.params.symm (fun x _ => hk.sameSource x) h h'
  exact hres.symm

theorem exec_xfer_fits (h : s.outLen.toNat ≤ s.params.inCap) : exec .xfer s = .next s.transfer :=
  congrArg _ (if_neg (Nat.not_lt.2 h))

/-- An `XFER` that leaves no error has transferred a sequence that fits `IN` (`44_transfer.md` R200). -/
theorem exec_xfer_success (h : exec .xfer s = .next t) (he : t.err = 0#3) :
    s.outLen.toNat ≤ s.params.inCap ∧ t = s.transfer := by
  rcases exec_cases h with ⟨e, rfl⟩ | ⟨-, -, -, -, hx⟩ | ⟨-, hfit, rfl⟩
  · obtain ⟨herr, -⟩ := flags_of_error (s.raise_status e)
    exact absurd he herr
  · exact absurd rfl hx
  · exact ⟨hfit, rfl⟩

/-- A transfer keeps `OUT`, `OUT_LEN` and `R[*]`, so a second one leaves the same result record. -/
theorem State.transfer_transfer_result (s : State) : s.transfer.transfer.result = s.transfer.result := rfl

/-- An `XFER` that succeeded, run again on what it left, leaves the same result record. -/
theorem exec_xfer_twice_result {u : State} (h : exec .xfer s = .next t) (he : t.err = 0#3)
    (h' : exec .xfer t = .next u) : u.result = t.result := by
  obtain ⟨hfit, rfl⟩ := exec_xfer_success h he
  have hagain : exec .xfer s.transfer = .next s.transfer.transfer := exec_xfer_fits hfit
  rw [hagain] at h'
  cases h'
  exact s.transfer_transfer_result

/-- Settles O51: a command other than `XFER` keeps its operands, and a successful `XFER` keeps what it transfers. -/
theorem commandsAreRepeatable : Obligations.CommandsAreRepeatable := by
  intro i s t hw h
  obtain ⟨u, hu⟩ := exec_next i t
  refine ⟨u, hu, fun hx => exec_twice_result hx hw h hu, fun he => ?_⟩
  by_cases hx : i = .xfer
  · subst hx
    exact exec_xfer_twice_result h he hu
  · exact exec_twice_result hx hw h hu

end Sys2Proof.Machine
end

section
/-! PROOFS. Decoding and encoding command words agree (`30_encoding.md` R60 to R64). -/

namespace Sys2Proof

theorem Laws.RoundTrip.statement (i : Instr) : Statement i := by
  cases i
  exacts [crc16, lrc8, encfRtu, encfAscii, decfRtu, decfAscii, pduenc1, pduenc2, pduenc3, pduenc4, pduenc5, pduenc6,
    pduenc7, pduenc8, pduenc11, pduenc12, pduenc15, pduenc16, pduenc17, pduenc20, pduenc21, pduenc22, pduenc23,
    pduenc24, pduenc43, xfer]

theorem decode_encode (i : Instr) : decode (encode i) = .instr i := (Laws.RoundTrip.statement i).1

/-- The three fields make up the word. -/
theorem joinFields_splitWord (w : W16) : joinFields (splitWord w) = w := by
  have hzero : w.extractLsb' 12 4 ++ w.extractLsb' 8 4 = w.extractLsb' 8 8 :=
    BitVec.extractLsb'_append_extractLsb'_eq_extractLsb' rfl
  have hsel : w.extractLsb' 8 8 ++ w.extractLsb' 0 8 = w.extractLsb' 0 16 :=
    BitVec.extractLsb'_append_extractLsb'_eq_extractLsb' rfl
  rw [joinFields, splitWord, hzero, hsel, BitVec.extractLsb'_eq_self]

/-- A `PDUENC` command has `OP` 5 and its function code in `SEL` (`30_encoding.md` R63). -/
theorem fields_of_pduencOf {n : Nat} {i : Instr} (h : pduencOf n = some i) :
    5 = i.opField.toNat ∧ n = i.selField.toNat := by
  unfold pduencOf at h
  split at h <;> cases h <;> exact ⟨rfl, rfl⟩

theorem fields_of_decodeOp {op sel : Nat} {i : Instr} (h : decodeOp op sel = .instr i) :
    op = i.opField.toNat ∧ sel = i.selField.toNat := by
  unfold decodeOp at h
  split at h
  case h_7 =>
    split at h
    case h_1 j hj => cases h; exact fields_of_pduencOf hj
    case h_2 => cases h
  all_goals cases h <;> exact ⟨rfl, rfl⟩

theorem fields_of_decodeFields {f : CmdFields} {i : Instr} (h : decodeFields f = .instr i) :
    f = { op := i.opField, zero := 0#4, sel := i.selField } := by
  unfold decodeFields at h
  split at h
  case isTrue hzero =>
    obtain ⟨hop, hsel⟩ := fields_of_decodeOp h
    obtain ⟨op, zero, sel⟩ := f
    rw [CmdFields.mk.injEq]
    exact ⟨BitVec.eq_of_toNat_eq hop, hzero, BitVec.eq_of_toNat_eq hsel⟩
  case isFalse => cases h

/-- A word that spells a command has the fields of that command, and its fields make up the word. -/
theorem decode_eq_instr_iff (w : W16) (i : Instr) : decode w = .instr i ↔ w = encode i := by
  constructor
  · intro h
    rw [← joinFields_splitWord w, fields_of_decodeFields h]
    rfl
  · rintro rfl
    exact decode_encode i

/-- Settles O1. -/
theorem wordSpellsCommandIffItsEncoding : Obligations.WordSpellsCommandIffItsEncoding := decode_eq_instr_iff

/-- Settles O2: each word of the table is the one the encoder gives its command. -/
theorem commandWordsOfTheTable : Obligations.CommandWordsOfTheTable := by
  simp only [Obligations.CommandWordsOfTheTable, decode_eq_instr_iff]
  decide

end Sys2Proof
end

section
/-! PROOFS. The digits and the frames, index by index (`30_encoding.md` R65 to R68), and framing what stands in `OUT`
(R76). -/

namespace Sys2Proof.Machine

/-! ## Hexadecimal digits -/

theorem hexByte_eq (b : Byte) : hexByte b = [hexChar (b.toNat / 16), hexChar (b.toNat % 16)] := by
  obtain ⟨hhi, hlo⟩ := nibbles b
  rw [hexByte, hhi, hlo]

/-- Settles O20. -/
theorem hexIsLowercaseHighNibbleFirst : Obligations.HexIsLowercaseHighNibbleFirst := ⟨by decide, hexByte_eq⟩

theorem hexVal_hexChar {v : Nat} (h : v < 16) : hexVal (hexChar v) = some v := by
  have hall : ∀ v : Fin 16, hexVal (hexChar v.val) = some v.val := by decide
  exact hall ⟨v, h⟩

/-- `unhex` is defined on two digits alone, and is then the byte of their two values (`30_encoding.md` R68). -/
theorem unhex_eq_some_iff (c1 c2 b : Byte) :
    unhex c1 c2 = some b ↔ ∃ h l, hexVal c1 = some h ∧ hexVal c2 = some l ∧ b.toNat = h * 16 + l := by
  have hbyte {h l : Nat} (hh : hexVal c1 = some h) (hl : hexVal c2 = some l) :
      (BitVec.ofNat 8 (h * 16 + l)).toNat = h * 16 + l :=
    Nat.mod_eq_of_lt (by have := hexVal_lt hh; have := hexVal_lt hl; omega)
  constructor
  · intro hb
    unfold unhex at hb
    split at hb
    case h_1 h l hh hl => cases hb; exact ⟨h, l, hh, hl, hbyte hh hl⟩
    case h_2 => cases hb
  · rintro ⟨h, l, hh, hl, hb⟩
    have hval : BitVec.ofNat 8 (h * 16 + l) = b := BitVec.eq_of_toNat_eq ((hbyte hh hl).trans hb.symm)
    simp only [unhex, hh, hl, hval]

theorem unhex_hexByte {b c1 c2 : Byte} (h : hexByte b = [c1, c2]) : unhex c1 c2 = some b := by
  rw [hexByte_eq] at h
  cases h
  have := b.isLt
  exact (unhex_eq_some_iff _ _ b).2
    ⟨_, _, hexVal_hexChar (by omega), hexVal_hexChar (by omega), (Nat.div_add_mod' b.toNat 16).symm⟩

/-- Settles O21. -/
theorem unhexUndoesHex : Obligations.UnhexUndoesHex :=
  ⟨fun _ => rfl, by decide +kernel, unhex_eq_some_iff, fun _ _ _ => unhex_hexByte⟩

/-! ## Frames -/

theorem encRtu_length (a : Byte) (P : List Byte) : (encRtu a P).length = P.length + 3 := by
  simp [encRtu]

/-- Settles O22. -/
theorem rtuFrameLayout : Obligations.RtuFrameLayout := by
  intro a P
  refine ⟨encRtu_length a P, rfl, fun i hi => ?_, ?_, ?_⟩
  · simp [encRtu, List.getElem?_append_left hi]
  · simp [encRtu, lo8_ofNat]
  · simp [encRtu, hi8_ofNat]

theorem encAscii_length (a : Byte) (P : List Byte) : (encAscii a P).length = 2 * P.length + 7 := by
  simp [encAscii, hexSeq_length]
  omega

/-- Between `:` and CR LF stand the digits of the address, of the PDU and of the LRC, two a byte. -/
theorem encAscii_digits {a b : Byte} {P : List Byte} {i : Nat} (h : (a :: (P ++ [lrc8 (a :: P)]))[i]? = some b) :
    (encAscii a P)[2 * i + 1]? = some (hexChar (b.toNat / 16)) ∧
      (encAscii a P)[2 * i + 2]? = some (hexChar (b.toNat % 16)) := by
  have hdigits {j : Nat} {c : Byte} (hj : (hexSeq (a :: (P ++ [lrc8 (a :: P)])))[j]? = some c) :
      (encAscii a P)[j + 1]? = some c :=
    (List.getElem?_append_left (List.getElem?_eq_some_iff.1 hj).1).trans hj
  obtain ⟨hhi, hlo⟩ := hexSeq_get _ i b h
  exact ⟨hdigits hhi, hdigits hlo⟩

/-- CR LF stand after the colon and the digits. -/
theorem encAscii_end (a : Byte) (P : List Byte) (k : Nat) :
    (encAscii a P)[2 * P.length + 5 + k]? = [chCR, chLF][k]? := by
  have hlen : ([chColon] ++ hexSeq ([a] ++ P ++ [lrc8 ([a] ++ P)])).length = 2 * P.length + 5 := by
    simp [hexSeq_length]
    omega
  rw [encAscii, ← hlen, List.getElem?_append_right (Nat.le_add_right _ _), Nat.add_sub_cancel_left]

theorem encAscii_lt (a : Byte) (P : List Byte) : ∀ ch ∈ encAscii a P, ch.toNat < 0x80 := by
  intro ch hch
  simp only [encAscii, List.mem_append, List.mem_cons, List.not_mem_nil, or_false] at hch
  rcases hch with (rfl | hdigit) | rfl | rfl
  · decide
  · exact hexSeq_lt _ ch hdigit
  · decide
  · decide

/-- Settles O23: the digits of byte 0, of the bytes of `P` and of the last byte, between the colon and CR LF. -/
theorem asciiFrameLayout : Obligations.AsciiFrameLayout := by
  intro a P
  obtain ⟨haddrHi, haddrLo⟩ := encAscii_digits (a := a) (P := P) (i := 0) (b := a) rfl
  obtain ⟨hlrcHi, hlrcLo⟩ := encAscii_digits (a := a) (P := P) (i := P.length + 1) (b := lrc8 (a :: P)) (by simp)
  refine ⟨encAscii_length a P, rfl, haddrHi, haddrLo, fun i b hb => ?_, hlrcHi, hlrcLo, encAscii_end a P 0,
    encAscii_end a P 1, encAscii_lt a P⟩
  have hbyte : (a :: (P ++ [lrc8 (a :: P)]))[i + 1]? = some b :=
    (List.getElem?_append_left (List.getElem?_eq_some_iff.1 hb).1).trans hb
  obtain ⟨hhi, hlo⟩ := encAscii_digits hbyte
  rw [show 3 + 2 * i = 2 * (i + 1) + 1 by omega, show 4 + 2 * i = 2 * (i + 1) + 2 by omega]
  exact ⟨hhi, hlo⟩

/-! ## Framing what stands in `OUT` -/

/-- An encoder frames an operand stream inside `IN` for an address it accepts (`41_frame_encode.md` R125). -/
theorem encodeFrame_ok {s : State} (hin : s.inLen.toNat ≤ s.params.inCap) (ha : s.a0.toNat ≤ 247)
    (enc : Byte → List Byte → List Byte) (checksum : List Byte → W16) :
    encodeFrame enc checksum s = .ok { out := enc (lo8 s.a0) s.opnd, r0 := checksum ([lo8 s.a0] ++ s.opnd) } := by
  rw [encodeFrame, s.withOpnd_ok hin]
  exact if_neg (Nat.not_lt.2 ha)

/-- After a transfer and a write of `A[0]`, an encoder frames what stood in `OUT`, where both fit. -/
theorem encodeFrame_after_transfer {s : State} {addr : W16} (hw : s.params.wf) (hin : s.outLen.toNat ≤ s.params.inCap)
    (ha : addr.toNat ≤ 247) (enc : Byte → List Byte → List Byte) (checksum : List Byte → W16)
    (hfit : (enc (lo8 addr) s.produced).length ≤ s.params.outCap) :
    ∃ v, (Host.Outcome.next (State.complete { s.transfer with a0 := addr }
        (encodeFrame enc checksum { s.transfer with a0 := addr })) : Host.Outcome State Fault Refusal) = .next v ∧
      v.status = 0x0000#16 ∧ v.produced = enc (BitVec.ofNat 8 addr.toNat) s.produced := by
  have hopnd : State.opnd { s.transfer with a0 := addr } = s.produced := s.transfer_opnd
  rw [encodeFrame_ok (s := { s.transfer with a0 := addr }) hin ha, hopnd, lo8_ofNat_toNat]
  obtain ⟨v, hv, hd⟩ := complete_delivers (s := { s.transfer with a0 := addr })
    (r := { out := enc (lo8 addr) s.produced, r0 := checksum ([lo8 addr] ++ s.produced) }) hw hfit
  exact ⟨v, hv, congrArg ResultRecord.status hd.result, congrArg ResultRecord.out hd.result⟩

/-- Settles O54: `XFER` makes what stands in `OUT` the operand stream, and both encoders frame that stream. -/
theorem transferThenFrame : Obligations.TransferThenFrame := by
  intro s addr hw hin ha
  refine ⟨fun hfit => ?_, fun hfit => ?_⟩
  · obtain ⟨v, hv⟩ := encodeFrame_after_transfer hw hin ha encRtu crc16 (by rwa [encRtu_length, s.produced_length])
    exact ⟨s.transfer, v, exec_xfer_fits hin, hv⟩
  · obtain ⟨v, hv⟩ := encodeFrame_after_transfer hw hin ha encAscii (fun B => zext16 (lrc8 B))
      (by rwa [encAscii_length, s.produced_length])
    exact ⟨s.transfer, v, exec_xfer_fits hin, hv⟩

end Sys2Proof.Machine
end

section
/-! PROOFS. The CRC step is linear over exclusive-or, the LRC zeroes the sum, and the two checksum commands
(`40_checksum.md`). -/

namespace Sys2Proof.Machine

/-! ## One CRC step -/

/-- The bit that is shifted out decides whether the polynomial enters (`40_checksum.md` R100). -/
theorem crc16Bit_eq (w : W16) : crc16Bit w = w >>> 1 ^^^ bif w.getLsbD 0 then 0xA001#16 else 0#16 := by
  unfold crc16Bit
  cases w.getLsbD 0
  · exact BitVec.xor_zero.symm
  · rfl

/-- Settles O14. -/
theorem crc16BitTestsThenShifts : Obligations.Crc16BitTestsThenShifts := by
  intro acc
  have hbit : acc.getLsbD 0 = decide (acc.toNat % 2 = 1) := Nat.testBit_zero acc.toNat
  rw [crc16Bit_eq, hbit]
  by_cases hodd : acc.toNat % 2 = 1 <;> simp [hodd, Nat.shiftRight_one]

theorem crc16Bit_xor (v w : W16) : crc16Bit (v ^^^ w) = crc16Bit v ^^^ crc16Bit w := by
  have hpoly (a b : Bool) : (bif a ^^ b then 0xA001#16 else 0#16) =
      (bif a then 0xA001#16 else 0#16) ^^^ bif b then 0xA001#16 else 0#16 := by
    cases a <;> cases b <;> rfl
  rw [crc16Bit_eq, crc16Bit_eq v, crc16Bit_eq w, BitVec.ushiftRight_xor_distrib, BitVec.getLsbD_xor, hpoly]
  ac_rfl

theorem crc16Bit_iterate_xor (n : Nat) (v w : W16) : crc16Bit^[n] (v ^^^ w) = crc16Bit^[n] v ^^^ crc16Bit^[n] w := by
  induction n generalizing v w with
  | zero => rfl
  | succ n ih => rw [Function.iterate_succ_apply, crc16Bit_xor, ih]; rfl

theorem crc16Bit_iterate_zero (n : Nat) : crc16Bit^[n] 0#16 = 0#16 := Function.iterate_fixed rfl n

/-- While the bits tested are 0 the steps are shifts. -/
theorem crc16Bit_iterate_of_low_zero {n : Nat} {w : W16} (h : ∀ i < n, w.getLsbD i = false) :
    crc16Bit^[n] w = w >>> n := by
  induction n generalizing w with
  | zero => exact (BitVec.ushiftRight_zero w).symm
  | succ n ih =>
    have hstep : crc16Bit w = w >>> 1 := by
      rw [crc16Bit_eq, h 0 n.succ_pos]
      exact BitVec.xor_zero
    rw [Function.iterate_succ_apply, hstep, ih fun i hi => ?_, ← BitVec.shiftRight_add, Nat.add_comm]
    rw [BitVec.getLsbD_ushiftRight]
    exact h _ (by omega)

/-! ## One byte, and a sequence -/

theorem zext16_xor (a b : Byte) : zext16 (a ^^^ b) = zext16 a ^^^ zext16 b := BitVec.setWidth_xor

theorem zext16_hi8 (w : W16) : zext16 (hi8 w) = w >>> 8 := by
  apply BitVec.eq_of_toNat_eq
  rw [zext16_toNat, ← hi8_ofNat, BitVec.toNat_ushiftRight, Nat.shiftRight_eq_div_pow, BitVec.toNat_ofNat]
  have := w.isLt
  omega

/-- A word without its low byte: bits 7:0 are 0. -/
theorem xor_lo8_getLsbD (w : W16) (i : Nat) : (w ^^^ zext16 (lo8 w)).getLsbD i = (decide (8 ≤ i) && w.getLsbD i) := by
  simp only [zext16, lo8, BitVec.getLsbD_xor, BitVec.getLsbD_setWidth, BitVec.getLsbD_extractLsb', Nat.zero_add]
  by_cases hi : i < 8
  · simp [hi, show i < 16 by omega]
  · simp [hi, show 8 ≤ i by omega]

/-- Eight steps from a word without its low byte shift its high byte down. -/
theorem crc16Bit_iterate_high (w : W16) : crc16Bit^[8] (w ^^^ zext16 (lo8 w)) = w >>> 8 := by
  rw [crc16Bit_iterate_of_low_zero fun i hi => by rw [xor_lo8_getLsbD, decide_eq_false (by omega), Bool.false_and]]
  apply BitVec.eq_of_getLsbD_eq
  intro i _
  simp only [BitVec.getLsbD_ushiftRight, xor_lo8_getLsbD, Nat.le_add_right, decide_true, Bool.true_and]

/-- Settles O15: the steps are linear, so the high byte, which they only shift down, and the low byte, which the table
is indexed with, go through them apart. -/
theorem crc16TableDrivenAgrees : Obligations.Crc16TableDrivenAgrees := by
  intro acc b
  have hparts : acc ^^^ zext16 b = (acc ^^^ zext16 (lo8 acc)) ^^^ zext16 (lo8 acc ^^^ b) := by
    rw [zext16_xor, BitVec.xor_assoc, ← BitVec.xor_assoc (zext16 (lo8 acc)), BitVec.xor_self, BitVec.zero_xor]
  rw [crc16Byte, crc16Byte, hparts, crc16Bit_iterate_xor, crc16Bit_iterate_high, BitVec.zero_xor]

/-- The low byte of an accumulator, taken in, leaves its high byte. -/
theorem crc16Byte_lo8 (acc : W16) : crc16Byte acc (lo8 acc) = zext16 (hi8 acc) := by
  rw [zext16_hi8, crc16Byte, crc16Bit_iterate_high]

theorem crc16Byte_zext16 (b : Byte) : crc16Byte (zext16 b) b = 0#16 := by
  rw [crc16Byte, BitVec.xor_self, crc16Bit_iterate_zero]

theorem crc16_append (B C : List Byte) : crc16 (B ++ C) = C.foldl crc16Byte (crc16 B) := List.foldl_append

/-- A sequence with its own CRC appended, low byte first, has CRC 0 (`40_checksum.md` R102). -/
theorem crc16_residue (B : List Byte) : crc16 (B ++ [lo8 (crc16 B), hi8 (crc16 B)]) = 0#16 :=
  calc crc16 (B ++ [lo8 (crc16 B), hi8 (crc16 B)])
    _ = crc16Byte (crc16Byte (crc16 B) (lo8 (crc16 B))) (hi8 (crc16 B)) := crc16_append B _
    _ = crc16Byte (zext16 (hi8 (crc16 B))) (hi8 (crc16 B)) := by rw [crc16Byte_lo8]
    _ = 0#16 := crc16Byte_zext16 _

/-- Settles O16. -/
theorem crc16InOrderWithZeroResidue : Obligations.Crc16InOrderWithZeroResidue := by
  refine ⟨rfl, fun B x => ?_, fun B => ?_⟩
  · rw [crc16_append, BitVec.ofNat_toNat]
    rfl
  · rw [lo8_ofNat, hi8_ofNat]
    exact crc16_residue B

/-! ## The LRC -/

/-- The LRC is the one byte that brings the sum to 0 modulo 256 (`40_checksum.md` R107). -/
theorem eq_lrc8_iff (B : List Byte) (v : Byte) : v = lrc8 B ↔ ((B.map BitVec.toNat).sum + v.toNat) % 256 = 0 := by
  have := v.isLt
  rw [← BitVec.toNat_inj, lrc8, byteSum_eq, BitVec.toNat_ofNat]
  omega

/-- Settles O17. -/
theorem lrcIsTheByteThatZeroesTheSum : Obligations.LrcIsTheByteThatZeroesTheSum := by
  intro B
  have hsum := (eq_lrc8_iff B (lrc8 B)).1 rfl
  refine ⟨hsum, ((eq_lrc8_iff _ 0#8).2 ?_).symm, fun v => (eq_lrc8_iff B v).2⟩
  simpa using hsum

/-! ## The checksum commands -/

/-- A word with `ZERO` 0 spells the command of its `OP` and its `SEL` (`30_encoding.md` R60). -/
theorem decode_of_zero {w : W16} {op : Nat} (h : w.toNat / 256 = 16 * op) : decode w = decodeOp op (w.toNat % 256) := by
  have hop : (w.extractLsb' 12 4).toNat = op := by
    rw [BitVec.extractLsb'_toNat, Nat.shiftRight_eq_div_pow]
    have := w.isLt
    omega
  have hzero : w.extractLsb' 8 4 = 0#4 := by
    apply BitVec.eq_of_toNat_eq
    rw [BitVec.extractLsb'_toNat, Nat.shiftRight_eq_div_pow, BitVec.toNat_ofNat]
    omega
  have hsel : (w.extractLsb' 0 8).toNat = w.toNat % 256 := BitVec.extractLsb'_toNat 0 8 w
  rw [decode, decodeFields, splitWord, hop, hsel]
  exact if_pos hzero

/-- `CRC16`, `LRC8` and `XFER` are the only commands of their `OP`: they have `SEL` 0 (`30_encoding.md` R64). -/
theorem decode_of_sel_ne_zero {w : W16} {op : Nat} (hop : op ∈ [1, 2, 6]) (h : w.toNat / 256 = 16 * op)
    (hsel : w.toNat % 256 ≠ 0) : decode w = .illegal := by
  rw [decode_of_zero h]
  cases hn : w.toNat % 256 with
  | zero => exact absurd hn hsel
  | succ n =>
    simp only [List.mem_cons, List.not_mem_nil, or_false] at hop
    rcases hop with rfl | rfl | rfl <;> rfl

/-- A command that reads the operand stream ends in `Arg` where `IN_LEN` is above `IN_CAP` (`60_exceptions.md` R254). -/
theorem State.withOpnd_endsIn_arg {s : State} {k : List Byte → Except CmdError ResultRecord}
    (h : s.params.inCap < s.inLen.toNat) : s.EndsIn (s.complete (s.withOpnd k)) .arg := by
  rw [s.withOpnd_arg h]
  exact s.raise_endsIn .arg

/-- A command whose record has no sequence delivers it, whatever `OUT_CAP` is. -/
theorem State.withOpnd_delivers_registers {s : State} {k : List Byte → Except CmdError ResultRecord}
    {r : ResultRecord} (h : s.inLen.toNat ≤ s.params.inCap) (hk : k s.opnd = .ok r) (hout : r.out = []) :
    s.Delivers (s.complete (s.withOpnd k)) r := by
  have hlen : r.out.length = 0 := by rw [hout, List.length_nil]
  rw [s.withOpnd_ok h, hk, s.complete_ok (by omega)]
  exact s.deliver_delivers r (by omega)

/-- Settles O18. -/
theorem crc16Command : Obligations.Crc16Command :=
  ⟨by decide, fun _ => decode_of_sel_ne_zero (op := 1) (by decide), fun _ =>
    ⟨fun h => ⟨_, rfl, State.withOpnd_endsIn_arg h⟩,
      fun h => ⟨_, rfl, State.withOpnd_delivers_registers h rfl rfl⟩⟩⟩

/-- Settles O19. -/
theorem lrc8Command : Obligations.Lrc8Command := by
  refine ⟨by decide, fun _ => decode_of_sel_ne_zero (op := 2) (by decide), fun s =>
    ⟨fun h => ⟨_, rfl, State.withOpnd_endsIn_arg h⟩, fun h => ?_⟩⟩
  obtain ⟨t, ht, hd⟩ : ∃ t, exec .lrc8 s = .next t ∧ s.Delivers t { r0 := zext16 (lrc8 s.opnd) } :=
    ⟨_, rfl, State.withOpnd_delivers_registers h rfl rfl⟩
  have hr0 : t.r0 = zext16 (lrc8 s.opnd) := congrArg ResultRecord.r0 hd.result
  exact ⟨t, ht, by rw [hr0, zext16_toNat], by rwa [hr0]⟩

end Sys2Proof.Machine
end

section
/-! PROOFS. The frame encoders as commands (`41_frame_encode.md` R121, R124, R125), and the round trip of a frame through
the block (R128). -/

namespace Sys2Proof.Machine

/-- A record that fits `OUT` is delivered. -/
theorem State.complete_ok_delivers {s : State} {r : ResultRecord} (hw : s.params.wf)
    (hfit : r.out.length ≤ s.params.outCap) : s.Delivers (s.complete (.ok r)) r := by
  rw [s.complete_ok hfit]
  exact s.deliver_delivers r (by have := hw.2.2; omega)

/-! ## The ends of an encoder -/

section
variable {s : State} {enc : Byte → List Byte → List Byte} {checksum : List Byte → W16}

/-- The two causes of `Arg` of an encoder (`41_frame_encode.md` R125). -/
theorem encodeFrame_arg (h : s.params.inCap < s.inLen.toNat ∨ 247 < s.a0.toNat) :
    encodeFrame enc checksum s = .error .arg := by
  by_cases hin : s.params.inCap < s.inLen.toNat
  · exact s.withOpnd_arg hin
  · rw [encodeFrame, s.withOpnd_ok (Nat.not_lt.1 hin)]
    exact if_pos (h.resolve_left hin)

theorem encodeFrame_endsIn_arg (h : s.params.inCap < s.inLen.toNat ∨ 247 < s.a0.toNat) :
    s.EndsIn (s.complete (encodeFrame enc checksum s)) .arg := by
  rw [encodeFrame_arg h]
  exact s.raise_endsIn .arg

theorem encodeFrame_endsIn_overflow (hin : s.inLen.toNat ≤ s.params.inCap) (ha : s.a0.toNat ≤ 247)
    (hover : s.params.outCap < (enc (lo8 s.a0) s.opnd).length) :
    s.EndsIn (s.complete (encodeFrame enc checksum s)) .overflow := by
  rw [encodeFrame_ok hin ha, s.complete_overflow hover]
  exact s.raise_endsIn .overflow

theorem encodeFrame_delivers (hw : s.params.wf) (hin : s.inLen.toNat ≤ s.params.inCap) (ha : s.a0.toNat ≤ 247)
    (hfit : (enc (lo8 s.a0) s.opnd).length ≤ s.params.outCap) :
    s.Delivers (s.complete (encodeFrame enc checksum s))
      { out := enc (lo8 s.a0) s.opnd, r0 := checksum (lo8 s.a0 :: s.opnd) } := by
  rw [encodeFrame_ok hin ha]
  exact State.complete_ok_delivers hw hfit

end

/-- What a delivery says of `R[0]`, beside the record written with `R[0]` itself. -/
theorem State.Delivers.r0_eq_and_delivers {s t : State} {r : ResultRecord} (h : s.Delivers t r) :
    t.r0 = r.r0 ∧ s.Delivers t { r with r0 := t.r0 } := by
  have hr0 : t.r0 = r.r0 := congrArg ResultRecord.r0 h.result
  exact ⟨hr0, hr0 ▸ h⟩

/-- Settles O25. -/
theorem encfRtuCommand : Obligations.EncfRtuCommand := by
  refine ⟨by decide, fun s hw => ?_⟩
  have hlen : (encRtu (lo8 s.a0) s.opnd).length = s.inLen.toNat + 3 := by rw [encRtu_length, s.opnd_length]
  rw [lo8_ofNat_toNat]
  exact ⟨fun h => ⟨_, rfl, encodeFrame_endsIn_arg h⟩,
    fun hin ha hover => ⟨_, rfl, encodeFrame_endsIn_overflow hin ha (hlen ▸ hover)⟩,
    fun hin ha hfit => ⟨_, rfl, (encodeFrame_delivers hw hin ha (hlen ▸ hfit)).r0_eq_and_delivers⟩⟩

/-- Settles O26. -/
theorem encfAsciiCommand : Obligations.EncfAsciiCommand := by
  refine ⟨by decide, fun s hw => ?_⟩
  have hlen : (encAscii (lo8 s.a0) s.opnd).length = 2 * s.inLen.toNat + 7 := by
    rw [encAscii_length, s.opnd_length]
  rw [lo8_ofNat_toNat]
  refine ⟨fun h => ⟨_, rfl, encodeFrame_endsIn_arg h⟩,
    fun hin ha hover => ⟨_, rfl, encodeFrame_endsIn_overflow hin ha (hlen ▸ hover)⟩, fun hin ha hfit => ?_⟩
  obtain ⟨hr0, hd⟩ := (encodeFrame_delivers (checksum := fun B => zext16 (lrc8 B)) hw hin ha
    (hlen ▸ hfit)).r0_eq_and_delivers
  exact ⟨_, rfl, (congrArg BitVec.toNat hr0).trans (zext16_toNat _), hd⟩

/-! ## The decoders undo the encoders (`42_frame_decode.md` R147) -/

/-! A first byte, a body and a trailer: the layout of an RTU frame, of the characters of an ASCII frame, and of the
bytes that its digits spell. -/

section
variable (a : Byte) (P T : List Byte)

theorem subseq_head_body : subseq (a :: (P ++ T)) 0 (P.length + 1) = a :: P := by
  simp [subseq]

theorem subseq_body : subseq (a :: (P ++ T)) 1 (P.length + 1) = P := by
  simp [subseq]

theorem byteAt_trailer (k : Nat) : byteAt (a :: (P ++ T)) (P.length + 1 + k) = byteAt T k := by
  rw [show P.length + 1 + k = P.length + k + 1 by omega]
  simp [byteAt, List.getElem?_append_right]

end

theorem decRtu_encRtu (a : Byte) (P : List Byte) :
    decRtu (encRtu a P) =
      some { addr := a, pdu := P, ok := true, computed := crc16 (a :: P), found := crc16 (a :: P) } := by
  have hframe : encRtu a P = a :: (P ++ [lo8 (crc16 (a :: P)), hi8 (crc16 (a :: P))]) := rfl
  have hlo : byteAt (encRtu a P) (P.length + 1) = lo8 (crc16 (a :: P)) := byteAt_trailer a P _ 0
  have hhi : byteAt (encRtu a P) (P.length + 2) = hi8 (crc16 (a :: P)) := byteAt_trailer a P _ 1
  have hcovered : subseq (encRtu a P) 0 (P.length + 1) = a :: P := subseq_head_body a P _
  have hpdu : subseq (encRtu a P) 1 (P.length + 1) = P := subseq_body a P _
  have haddr : byteAt (encRtu a P) 0 = a := rfl
  rw [decRtu, encRtu_length]
  simp [hlo, hhi, hcovered, hpdu, haddr, word16_hi8_lo8]

theorem unhexPairs_hexSeq (B : List Byte) : unhexPairs (hexSeq B) = some B := by
  induction B with
  | nil => rfl
  | cons b B ih =>
    have hb : unhex (hexChar (b.toNat / 16)) (hexChar (b.toNat % 16)) = some b := unhex_hexByte (hexByte_eq b)
    rw [hexSeq_cons, hexByte_eq]
    simp [unhexPairs, hb, ih]

/-- The characters between `:` and CR LF. -/
theorem subseq_encAscii (a : Byte) (P : List Byte) :
    subseq (encAscii a P) 1 ((encAscii a P).length - 2) = hexSeq (a :: (P ++ [lrc8 (a :: P)])) := by
  have hlen : (encAscii a P).length - 2 = (hexSeq (a :: (P ++ [lrc8 (a :: P)]))).length + 1 := by
    rw [encAscii_length, hexSeq_length]
    simp
    omega
  rw [hlen]
  exact subseq_body chColon _ [chCR, chLF]

/-- An encoded frame meets conditions (a) to (e) of `42_frame_decode.md` R142. -/
theorem asciiFrame_encAscii (a : Byte) (P : List Byte) : AsciiFrame (encAscii a P) := by
  have hlen := encAscii_length a P
  refine ⟨by omega, rfl, ⟨?_, ?_⟩, by omega, fun i hlo hhi => ?_⟩
  · rw [hlen]; exact encAscii_end a P 0
  · rw [hlen]; exact encAscii_end a P 1
  · have hi : i < (encAscii a P).length := by omega
    refine ⟨(encAscii a P)[i], List.getElem?_eq_getElem hi, hexSeq_digit (a :: (P ++ [lrc8 (a :: P)])) _ ?_⟩
    rw [← subseq_encAscii, subseq, List.mem_drop_iff_getElem]
    refine ⟨i - 1, by rw [List.length_take]; omega, ?_⟩
    simp only [List.getElem_take, Nat.add_sub_cancel' hlo]

theorem decAscii_encAscii (a : Byte) (P : List Byte) :
    decAscii (encAscii a P) =
      some { addr := a, pdu := P, ok := true, computed := lrc8 (a :: P), found := lrc8 (a :: P) } := by
  have hwf : asciiWellFormed (encAscii a P) = true := (asciiWellFormed_iff _).2 (asciiFrame_encAscii a P)
  have hlast : (a :: (P ++ [lrc8 (a :: P)])).length - 1 = P.length + 1 := by simp
  have hlrc : byteAt (a :: (P ++ [lrc8 (a :: P)])) (P.length + 1) = lrc8 (a :: P) := byteAt_trailer a P _ 0
  have haddr : byteAt (a :: (P ++ [lrc8 (a :: P)])) 0 = a := rfl
  rw [decAscii, if_pos hwf, subseq_encAscii, unhexPairs_hexSeq]
  simp only [hlast, hlrc, haddr, subseq_head_body, subseq_body, beq_self_eq_true]

/-! ## A frame through the block -/

/-- An accepted address is in the low byte of `A[0]` (`41_frame_encode.md` R125). -/
theorem zext16_lo8_of_le {w : W16} (h : w.toNat ≤ 247) : zext16 (lo8 w) = w := by
  apply BitVec.eq_of_toNat_eq
  rw [zext16_toNat, ← lo8_ofNat, BitVec.toNat_ofNat]
  omega

/-- A good checksum is `CSUM_OK` alone (`10_state.md` R15). -/
theorem statusDecoded_true : statusDecoded true = 0x0008#16 := by decide

/-- What a decoder delivers from an operand stream inside `IN` that it decodes. -/
theorem decoded_delivers {s : State} {w : Nat} {widen : BitVec w → W16} {dec : List Byte → Option (DecodedFrame w)}
    {d : DecodedFrame w} (hw : s.params.wf) (hin : s.inLen.toNat ≤ s.params.inCap) (hdec : dec s.opnd = some d)
    (hfit : d.pdu.length ≤ s.params.outCap) :
    s.Delivers (s.complete (s.withOpnd fun F => decodedResult widen (dec F)))
      { status := statusDecoded d.ok, out := d.pdu, r0 := widen d.computed, r1 := widen d.found,
        r2 := zext16 d.addr } := by
  rw [s.withOpnd_ok hin, hdec]
  exact State.complete_ok_delivers hw hfit

/-- Encode, transfer, decode, for any encoder and decoder that undo each other: the encoder delivers the frame, `XFER`
makes it the operand stream, and the decoder delivers what was framed. -/
theorem frame_survives {w : Nat} {enc : Byte → List Byte → List Byte} {dec : List Byte → Option (DecodedFrame w)}
    {checksum : List Byte → BitVec w} (widen : BitVec w → W16)
    (hdec : ∀ a P, dec (enc a P) =
      some { addr := a, pdu := P, ok := true, computed := checksum (a :: P), found := checksum (a :: P) })
    {s : State} (hw : s.params.wf) (ha : s.a0.toNat ≤ 247)
    (hpdu : s.inLen.toNat ≤ (enc (lo8 s.a0) s.opnd).length)
    (hin : (enc (lo8 s.a0) s.opnd).length ≤ s.params.inCap)
    (hout : (enc (lo8 s.a0) s.opnd).length ≤ s.params.outCap) :
    ∃ t u v, t = s.complete (encodeFrame enc (fun B => widen (checksum B)) s) ∧ exec .xfer t = .next u ∧
      v = u.complete (u.withOpnd fun F => decodedResult widen (dec F)) ∧
      v.status = 0x0008#16 ∧ v.produced = s.opnd ∧ v.r2 = s.a0 ∧ v.r0 = t.r0 ∧ v.r1 = t.r0 := by
  obtain ⟨t, henc, ht⟩ : ∃ t, t = s.complete (encodeFrame enc (fun B => widen (checksum B)) s) ∧
      s.Delivers t { out := enc (lo8 s.a0) s.opnd, r0 := widen (checksum (lo8 s.a0 :: s.opnd)) } :=
    ⟨_, rfl, encodeFrame_delivers hw (hpdu.trans hin) ha hout⟩
  have hparams : t.params = s.params := ht.keeps.params
  have hxfer : t.outLen.toNat ≤ t.params.inCap := by rw [ht.outLen, hparams]; exact hin
  have hopnd : t.transfer.opnd = enc (lo8 s.a0) s.opnd :=
    t.transfer_opnd.trans (congrArg ResultRecord.out ht.result)
  have hv := decoded_delivers (s := t.transfer) (widen := widen) (hparams.symm ▸ hw) hxfer
    ((congrArg dec hopnd).trans (hdec _ _)) (by
      rw [State.transfer_params, hparams, s.opnd_length]
      exact hpdu.trans hout)
  have hr0 : t.r0 = widen (checksum (lo8 s.a0 :: s.opnd)) := congrArg ResultRecord.r0 ht.result
  refine ⟨t, t.transfer, _, henc, exec_xfer_fits hxfer, rfl, ?_, ?_, ?_, ?_, ?_⟩
  · exact (congrArg ResultRecord.status hv.result).trans statusDecoded_true
  · exact congrArg ResultRecord.out hv.result
  · exact (congrArg ResultRecord.r2 hv.result).trans (zext16_lo8_of_le ha)
  · exact (congrArg ResultRecord.r0 hv.result).trans hr0.symm
  · exact (congrArg ResultRecord.r1 hv.result).trans hr0.symm

/-- Settles O52: `dec_rtu` undoes `enc_rtu`. -/
theorem rtuFrameSurvivesTheBlock : Obligations.RtuFrameSurvivesTheBlock := by
  intro s hw hin hout ha
  have hlen : (encRtu (lo8 s.a0) s.opnd).length = s.inLen.toNat + 3 := by rw [encRtu_length, s.opnd_length]
  obtain ⟨t, u, v, rfl, hu, rfl, h⟩ :=
    frame_survives id decRtu_encRtu hw ha (by omega) (hlen ▸ hin) (hlen ▸ hout)
  exact ⟨_, u, _, rfl, hu, rfl, h⟩

/-- Settles O53: `dec_ascii` undoes `enc_ascii`. -/
theorem asciiFrameSurvivesTheBlock : Obligations.AsciiFrameSurvivesTheBlock := by
  intro s hw hin hout ha
  have hlen : (encAscii (lo8 s.a0) s.opnd).length = 2 * s.inLen.toNat + 7 := by
    rw [encAscii_length, s.opnd_length]
  obtain ⟨t, u, v, rfl, hu, rfl, h⟩ :=
    frame_survives zext16 decAscii_encAscii hw ha (by omega) (hlen ▸ hin) (hlen ▸ hout)
  exact ⟨_, u, _, rfl, hu, rfl, h⟩

end Sys2Proof.Machine
end

section
/-! PROOFS. The frame decoders as commands (`42_frame_decode.md` R141, R144, R149), and the round trip of R147. -/

namespace Sys2Proof.Machine

/-- Settles O24. -/
theorem decodersUndoEncoders : Obligations.DecodersUndoEncoders :=
  fun a P => ⟨decRtu_encRtu a P, decAscii_encAscii a P, asciiFrame_encAscii a P⟩

/-! ## Parts of a sequence -/

theorem subseq_length (B : List Byte) (i j : Nat) : (subseq B i j).length = min j B.length - i := by
  rw [subseq, List.length_drop, List.length_take]

theorem subseq_getElem? {i j k : Nat} (B : List Byte) (h : i + k < j) : (subseq B i j)[k]? = B[i + k]? := by
  rw [subseq, List.getElem?_drop, List.getElem?_take_of_lt h]

theorem getElem?_eq_byteAt {B : List Byte} {i : Nat} (h : i < B.length) : B[i]? = some (byteAt B i) := by
  rw [byteAt, List.getD, List.getElem?_eq_getElem h, Option.getD_some]

theorem word16_toNat (hi lo : Byte) : (word16 hi lo).toNat = lo.toNat + 256 * hi.toNat := by
  have := hi.isLt
  have := lo.isLt
  rw [word16, BitVec.toNat_ofNat]
  omega

/-! ## What the decoders find -/

theorem decRtu_of_short {F : List Byte} (h : F.length < 3) : decRtu F = none := if_pos h

/-- Three bytes or more decode, field by field (`42_frame_decode.md` R140). -/
theorem decRtu_of_le {F : List Byte} (h : 3 ≤ F.length) :
    ∃ d, decRtu F = some d ∧ d.addr = byteAt F 0 ∧ d.pdu = subseq F 1 (F.length - 2) ∧
      d.computed = crc16 (F.take (F.length - 2)) ∧
      d.found = word16 (byteAt F (F.length - 1)) (byteAt F (F.length - 2)) :=
  ⟨_, if_neg (Nat.not_lt.2 h), rfl, rfl, rfl, rfl⟩

theorem decAscii_of_not_frame {F : List Byte} (h : ¬ AsciiFrame F) : decAscii F = none :=
  if_neg (mt (asciiWellFormed_iff F).1 h)

/-- A well-formed frame decodes, field by field of the bytes that its digits spell (`42_frame_decode.md` R143). -/
theorem decAscii_of_frame {F : List Byte} (h : AsciiFrame F) :
    ∃ D d, unhexPairs (subseq F 1 (F.length - 2)) = some D ∧ D.length = (F.length - 3) / 2 ∧
      decAscii F = some d ∧ d.addr = byteAt D 0 ∧ d.pdu = (D.drop 1).take (D.length - 2) ∧
      d.pdu.length = D.length - 2 ∧ d.computed = lrc8 (D.take (D.length - 1)) ∧
      d.found = byteAt D (D.length - 1) := by
  obtain ⟨D, hD, hlen⟩ := frame_pairs h
  have hwf : asciiWellFormed F = true := (asciiWellFormed_iff F).2 h
  refine ⟨D, _, hD, hlen, by rw [decAscii, if_pos hwf, hD], rfl, ?_, ?_, rfl, rfl⟩
  · rw [subseq, List.drop_take, Nat.sub_sub]
  · rw [subseq_length]
    omega

/-- Digit pair `j` of a frame stands at its characters `1 + 2j` and `2 + 2j`. -/
theorem unhex_of_unhexPairs {F D : List Byte} (hD : unhexPairs (subseq F 1 (F.length - 2)) = some D) {j : Nat}
    (hj : j < D.length) : unhex (byteAt F (1 + 2 * j)) (byteAt F (2 + 2 * j)) = D[j]? := by
  obtain ⟨hlen, hpair⟩ := unhexPairs_get hD
  rw [subseq_length] at hlen
  have hchar {k : Nat} (hk : k < 2 * D.length) : (subseq F 1 (F.length - 2)).getD k 0#8 = byteAt F (1 + k) := by
    rw [byteAt, List.getD, List.getD, subseq_getElem? F (by omega)]
  rw [← hpair j hj, hchar (by omega), hchar (by omega), show 1 + (2 * j + 1) = 2 + 2 * j by omega]

/-! ## The ends of a decoder -/

/-- `STATUS` says whether the two checksums agree (`42_frame_decode.md` R145). -/
theorem statusDecoded_decide (p : Prop) [Decidable p] :
    statusDecoded (decide p) = if p then 0x0008#16 else 0x0010#16 := by
  by_cases h : p <;> simp only [h, decide_true, decide_false, if_true, if_false] <;> rfl

section
variable {s t : State} {w : Nat} {widen : BitVec w → W16} {dec : List Byte → Option (DecodedFrame w)}
  {d : DecodedFrame w}

theorem decoded_endsIn_framing (hin : s.inLen.toNat ≤ s.params.inCap) (hdec : dec s.opnd = none) :
    s.EndsIn (s.complete (s.withOpnd fun F => decodedResult widen (dec F))) .framing := by
  rw [s.withOpnd_ok hin, hdec]
  exact s.raise_endsIn .framing

theorem decoded_endsIn_overflow (hin : s.inLen.toNat ≤ s.params.inCap) (hdec : dec s.opnd = some d)
    (hover : s.params.outCap < d.pdu.length) :
    s.EndsIn (s.complete (s.withOpnd fun F => decodedResult widen (dec F))) .overflow := by
  rw [s.withOpnd_ok hin, hdec, decodedResult, s.complete_overflow hover]
  exact s.raise_endsIn .overflow

/-- The delivery of a decoded frame, register by register, where widening a checksum loses nothing. -/
theorem State.Delivers.decoded (hinj : ∀ a b, widen a = widen b ↔ a = b)
    (hok : d.ok = decide (d.computed = d.found))
    (h : s.Delivers t
      { status := statusDecoded d.ok, out := d.pdu, r0 := widen d.computed, r1 := widen d.found,
        r2 := zext16 d.addr }) :
    t.produced = d.pdu ∧ t.r0 = widen d.computed ∧ t.r1 = widen d.found ∧ t.r2.toNat = d.addr.toNat ∧
      t.status = if t.r0 = t.r1 then 0x0008#16 else 0x0010#16 := by
  have hr0 : t.r0 = widen d.computed := congrArg ResultRecord.r0 h.result
  have hr1 : t.r1 = widen d.found := congrArg ResultRecord.r1 h.result
  have hr2 : t.r2 = zext16 d.addr := congrArg ResultRecord.r2 h.result
  have hstatus : t.status = statusDecoded d.ok := congrArg ResultRecord.status h.result
  refine ⟨congrArg ResultRecord.out h.result, hr0, hr1, by rw [hr2, zext16_toNat], ?_⟩
  rw [hstatus, hok, hr0, hr1, ← statusDecoded_decide]
  exact congrArg statusDecoded (decide_eq_decide.2 (hinj _ _).symm)

end

/-! ## The commands -/

/-- A byte of `OUT` below `OUT_LEN` is a byte of the produced sequence. -/
theorem State.readOut_of_produced {t : State} {k : Nat} {b : Byte} (h : t.produced[k]? = some b) :
    t.readByte .outBuf k = b := by
  rw [State.produced_getElem?] at h
  split at h
  · exact Option.some.inj h
  · cases h

/-- The length of the PDU of an RTU frame. -/
theorem subseq_opnd_length (s : State) : (subseq s.opnd 1 (s.opnd.length - 2)).length = s.inLen.toNat - 3 := by
  rw [subseq_length, s.opnd_length]
  omega

/-- Settles O27. -/
theorem decfRtuCommand : Obligations.DecfRtuCommand := by
  refine ⟨by decide, fun s hw => ⟨fun h => ⟨_, rfl, State.withOpnd_endsIn_arg h⟩, fun hin hshort => ?_,
    fun hin hover => ?_, fun hin hlen hfit => ?_⟩⟩
  · exact ⟨_, rfl, decoded_endsIn_framing hin (decRtu_of_short (by rwa [s.opnd_length]))⟩
  · obtain ⟨d, hdec, -, hpdu, -⟩ := decRtu_of_le (F := s.opnd) (by rw [s.opnd_length]; omega)
    exact ⟨_, rfl, decoded_endsIn_overflow hin hdec (by rwa [hpdu, subseq_opnd_length])⟩
  · obtain ⟨d, hdec, haddr, hpdu, hcalc, hfound⟩ := decRtu_of_le (F := s.opnd) (by rwa [s.opnd_length])
    have hplen : d.pdu.length = s.inLen.toNat - 3 := by rw [hpdu, subseq_opnd_length]
    have hd := decoded_delivers (widen := id) hw hin hdec (hplen ▸ hfit)
    obtain ⟨hout, hr0, hr1, hr2, hstatus⟩ := hd.decoded (fun _ _ => .rfl) (decRtu_ok s.opnd d hdec)
    rw [s.opnd_length] at hpdu hcalc hfound
    refine ⟨_, rfl, hd.keeps, hd.outLen.trans hplen, fun k hk => State.readOut_of_produced ?_, hr0.trans hcalc, ?_,
      ?_, hstatus⟩
    · rw [hout, hpdu, subseq_getElem? s.opnd (by omega), s.opnd_getElem?, if_pos (by omega), Nat.add_comm]
    · rw [hr1, hfound, word16_toNat, byteAt_opnd s (by omega), byteAt_opnd s (by omega)]
    · rw [hr2, haddr, byteAt_opnd s (by omega)]

/-- Settles O28. -/
theorem decfAsciiCommand : Obligations.DecfAsciiCommand := by
  refine ⟨by decide, fun s hw => ⟨fun h => ⟨_, rfl, State.withOpnd_endsIn_arg h⟩,
    fun hin hframe => ⟨_, rfl, decoded_endsIn_framing hin (decAscii_of_not_frame hframe)⟩,
    fun hin hframe hover => ?_, fun hin hframe hfit => ?_⟩⟩
  · obtain ⟨D, d, -, hlen, hdec, -, -, hplen, -⟩ := decAscii_of_frame hframe
    exact ⟨_, rfl, decoded_endsIn_overflow hin hdec (by rwa [hplen, hlen, s.opnd_length])⟩
  · obtain ⟨D, d, hD, hlen, hdec, haddr, hpdu, hplen, hcalc, hfound⟩ := decAscii_of_frame hframe
    have hseven := hframe.a
    rw [s.opnd_length] at hlen hseven
    have hd := decoded_delivers (widen := zext16) hw hin hdec (by rwa [hplen, hlen])
    obtain ⟨hout, hr0, hr1, hr2, hstatus⟩ := hd.decoded zext16_inj (decAscii_ok s.opnd d hdec)
    refine ⟨_, D, rfl, hd.keeps, hlen, fun j hj => ?_, hout.trans hpdu, hd.outLen.trans hplen,
      ⟨_, getElem?_eq_byteAt (by omega), ?_⟩, ⟨_, getElem?_eq_byteAt (by omega), by rw [hr2, haddr]⟩, ?_, hstatus⟩
    · rw [← unhex_of_unhexPairs hD hj, byteAt_opnd s (by omega), byteAt_opnd s (by omega)]
    · rw [hr1, zext16_toNat, hfound]
    · rw [hr0, zext16_toNat, hcalc]

/-- Settles O30: the computed CRC and the one found differ, and `dec_rtu` gives the PDU all the same. -/
theorem corruptedTrailerStillDelivers : Obligations.CorruptedTrailerStillDelivers := by
  intro s hw hlen hcap hopnd
  have hin : s.inLen.toNat ≤ s.params.inCap := by rw [hlen]; exact hcap
  have hdec : decRtu s.opnd = some
      { addr := 0x11#8, pdu := [0x03#8, 0x00#8, 0x6B#8, 0x00#8, 0x03#8], ok := false,
        computed := 0x8776#16, found := 0x8676#16 } := by
    rw [hopnd]
    decide +kernel
  have hfit : 5 ≤ s.params.outCap := by have := hw.2.1; omega
  exact ⟨_, rfl, decoded_delivers (widen := id) hw hin hdec hfit⟩

end Sys2Proof.Machine
end

section
/-! PROOFS. The request-PDU encoders whose PDU has a fixed length (`43_pdu_encode.md` R160 to R166, R168 to R171, R176,
R179, R180). -/

namespace Sys2Proof.Machine

section
variable {s : State} {pdu : List Byte}

@[simp] theorem be16_length (w : W16) : (be16 w).length = 2 := rfl

@[simp] theorem pduTwoWords_length (fc : Byte) (address field : W16) : (pduTwoWords fc address field).length = 5 := rfl

/-- The record of a produced PDU: `STATUS` and `R[*]` are 0 (`43_pdu_encode.md` R160). -/
theorem pduResult_eq (pdu : List Byte) : pduResult pdu = .ok { out := pdu } := rfl

/-- A PDU that fits `OUT` is delivered. -/
theorem State.complete_pdu_delivers (hw : s.params.wf) (hfit : pdu.length ≤ s.params.outCap) :
    s.Delivers (s.complete (pduResult pdu)) { out := pdu } := by
  rw [pduResult_eq]
  exact State.complete_ok_delivers hw hfit

/-- Seven bytes fit every admitted `OUT` (`00_scope.md` R5). -/
theorem State.complete_short_pdu_delivers (hw : s.params.wf) (hlen : pdu.length ≤ 7) :
    s.Delivers (s.complete (pduResult pdu)) { out := pdu } :=
  State.complete_pdu_delivers hw (hlen.trans hw.2.1)

end

/-- Settles O31: all four are layout `P2` of `30_encoding.md` R69. -/
theorem readRequestPdus : Obligations.ReadRequestPdus := by
  refine ⟨by decide, by decide, by decide, by decide, fun s i fc hw hi => ?_⟩
  have hexec : exec i s = .next (s.complete (pduResult (pduTwoWords fc s.a0 s.a1))) := by
    simp only [List.mem_cons, Prod.mk.injEq, List.not_mem_nil, or_false] at hi
    rcases hi with ⟨rfl, rfl⟩ | ⟨rfl, rfl⟩ | ⟨rfl, rfl⟩ | ⟨rfl, rfl⟩ <;> rfl
  simp only [hi8_ofNat, lo8_ofNat]
  exact ⟨_, hexec, State.complete_short_pdu_delivers hw (by simp)⟩

/-- Settles O32. -/
theorem writeSinglePdus : Obligations.WriteSinglePdus := by
  refine ⟨by decide, by decide, fun s hw => ?_⟩
  simp only [hi8_ofNat, lo8_ofNat]
  have hcoil (v : W16) (hv : (if s.a1 = 0#16 then 0x0000#16 else 0xFF00#16) = v) :
      exec .pduenc5 s = .next (s.complete (pduResult (pduTwoWords 0x05#8 s.a0 v))) := by
    rw [← hv]; rfl
  exact ⟨fun hoff => ⟨_, hcoil _ (if_pos hoff), State.complete_short_pdu_delivers hw (by simp)⟩,
    fun hon => ⟨_, hcoil _ (if_neg hon), State.complete_short_pdu_delivers hw (by simp)⟩,
    ⟨_, rfl, State.complete_short_pdu_delivers hw (by simp)⟩⟩

/-- Settles O33. -/
theorem codeOnlyPdus : Obligations.CodeOnlyPdus := by
  refine ⟨by decide, by decide, by decide, by decide, fun s i fc hw hi => ?_⟩
  have hexec : exec i s = .next (s.complete (pduResult [fc])) := by
    simp only [List.mem_cons, Prod.mk.injEq, List.not_mem_nil, or_false] at hi
    rcases hi with ⟨rfl, rfl⟩ | ⟨rfl, rfl⟩ | ⟨rfl, rfl⟩ | ⟨rfl, rfl⟩ <;> rfl
  exact ⟨_, hexec, State.complete_short_pdu_delivers hw (by simp)⟩

/-- Settles O40. -/
theorem maskWriteAndFifoPdus : Obligations.MaskWriteAndFifoPdus := by
  refine ⟨by decide, by decide, fun s hw => ?_⟩
  simp only [hi8_ofNat, lo8_ofNat]
  exact ⟨⟨_, rfl, State.complete_short_pdu_delivers hw (by simp)⟩,
    ⟨_, rfl, State.complete_short_pdu_delivers hw (by simp)⟩⟩

/-- Settles O42. -/
theorem readDeviceIdCommand : Obligations.ReadDeviceIdCommand := by
  refine ⟨by decide, fun s hw => ⟨fun h => ⟨_, rfl, ?_⟩, fun h0 h1 => ⟨_, rfl, ?_⟩⟩⟩
  · rw [if_pos h]
    exact s.raise_endsIn .arg
  · rw [if_neg (by omega), lo8_ofNat_toNat, lo8_ofNat_toNat]
    exact State.complete_short_pdu_delivers hw (by decide : 4 ≤ 7)

end Sys2Proof.Machine
end

section
/-! PROOFS. The request-PDU encoders that read the operand stream (`43_pdu_encode.md` R167, R172 to R175, R177, R178,
R184). -/

namespace Sys2Proof.Machine

/-! ## The three ends of a command that reads the operand stream -/

section
variable {s : State} {k : List Byte → Except CmdError ResultRecord} {pdu : List Byte} {n : Nat}

/-- `Arg`: `IN_LEN` is above `IN_CAP`, or the command's own check on the stream answers it (`60_exceptions.md` R254). -/
theorem State.withOpnd_endsIn_arg_of_check (h : s.inLen.toNat ≤ s.params.inCap → k s.opnd = .error .arg) :
    s.EndsIn (s.complete (s.withOpnd k)) .arg := by
  by_cases hin : s.inLen.toNat ≤ s.params.inCap
  · rw [s.withOpnd_ok hin, h hin]
    exact s.raise_endsIn .arg
  · exact State.withOpnd_endsIn_arg (Nat.not_le.1 hin)

/-- `Overflow`: the PDU of the stream is longer than `OUT_CAP` (`60_exceptions.md` R256). -/
theorem State.withOpnd_endsIn_overflow (hin : s.inLen.toNat ≤ s.params.inCap) (hk : k s.opnd = pduResult pdu)
    (hlen : pdu.length = n) (hover : s.params.outCap < n) : s.EndsIn (s.complete (s.withOpnd k)) .overflow := by
  rw [s.withOpnd_ok hin, hk, pduResult_eq, s.complete_overflow (hlen ▸ hover)]
  exact s.raise_endsIn .overflow

/-- Success: the PDU of the stream fits. -/
theorem State.withOpnd_delivers_pdu (hw : s.params.wf) (hin : s.inLen.toNat ≤ s.params.inCap)
    (hk : k s.opnd = pduResult pdu) (hlen : pdu.length = n) (hfit : n ≤ s.params.outCap) :
    s.Delivers (s.complete (s.withOpnd k)) { out := pdu } := by
  rw [s.withOpnd_ok hin, hk]
  exact State.complete_pdu_delivers hw (hlen ▸ hfit)

end

/-- The length of a PDU that is a header and then the operand stream as it stands. -/
theorem State.append_opnd_length (s : State) (header : List Byte) :
    (header ++ s.opnd).length = header.length + s.inLen.toNat := by
  rw [List.length_append, s.opnd_length]

/-- Settles O34. -/
theorem diagnosticsPdu : Obligations.DiagnosticsPdu := by
  refine ⟨by decide, fun s hw => ?_⟩
  rw [hi8_ofNat, lo8_ofNat]
  exact ⟨fun h => ⟨_, rfl, State.withOpnd_endsIn_arg h⟩,
    fun hin hover => ⟨_, rfl, State.withOpnd_endsIn_overflow hin rfl (s.append_opnd_length _) hover⟩,
    fun hin hfit => ⟨_, rfl, State.withOpnd_delivers_pdu hw hin rfl (s.append_opnd_length _) hfit⟩⟩

/-! ## Word streams: `PDUENC.16` and `PDUENC.23` -/

/-- `be16` of a number below 256. -/
theorem be16_ofNat_byte {n : Nat} (h : n < 256) : be16 (BitVec.ofNat 16 n) = [0x00#8, BitVec.ofNat 8 n] := by
  rw [be16_ofNat n (by omega), Nat.div_eq_of_lt h, Nat.mod_eq_of_lt h]

theorem withWords_arg {B : List Byte} {r : Except CmdError ResultRecord} (h : B.length % 2 = 1 ∨ 255 < B.length) :
    withWords B r = .error .arg := by
  by_cases hodd : B.length % 2 ≠ 0
  · exact if_pos hodd
  · exact (if_neg hodd).trans (if_pos (by omega))

theorem withWords_ok {B : List Byte} {r : Except CmdError ResultRecord} (heven : B.length % 2 = 0)
    (hbyte : B.length ≤ 255) : withWords B r = r :=
  (if_neg (by omega)).trans (if_neg (by omega))

/-- What `PDUENC.16` and `PDUENC.23` answer to a stream: a PDU of their header, the count of words, the byte count and
the words (`43_pdu_encode.md` R172, R175). -/
def wordsAnswer (header B : List Byte) : Except CmdError ResultRecord :=
  withWords B (pduResult (header ++ be16 (BitVec.ofNat 16 (B.length / 2)) ++ [byteField B.length] ++ B))

theorem exec_pduenc16 (s : State) :
    exec .pduenc16 s = .next (s.complete (s.withOpnd (wordsAnswer ([0x10#8] ++ be16 s.a0)))) := rfl

theorem exec_pduenc23 (s : State) : exec .pduenc23 s =
    .next (s.complete (s.withOpnd (wordsAnswer ([0x17#8] ++ be16 s.a0 ++ be16 s.a1 ++ be16 s.a2)))) := rfl

section
variable {s : State} {header : List Byte}

theorem wordsAnswer_endsIn_arg
    (h : s.params.inCap < s.inLen.toNat ∨ s.inLen.toNat % 2 = 1 ∨ 255 < s.inLen.toNat) :
    s.EndsIn (s.complete (s.withOpnd (wordsAnswer header))) .arg :=
  State.withOpnd_endsIn_arg_of_check fun hin => withWords_arg (by rw [s.opnd_length]; omega)

/-- The PDU of a word stream that passes the checks: the high byte of the count of words is 0. -/
theorem wordsAnswer_opnd (heven : s.inLen.toNat % 2 = 0) (hbyte : s.inLen.toNat ≤ 255) :
    wordsAnswer header s.opnd =
    pduResult (header ++ [0x00#8, BitVec.ofNat 8 (s.inLen.toNat / 2), BitVec.ofNat 8 s.inLen.toNat] ++ s.opnd) := by
  rw [wordsAnswer, withWords_ok (by rwa [s.opnd_length]) (by rwa [s.opnd_length]), s.opnd_length,
    be16_ofNat_byte (by omega), List.append_assoc header]
  rfl

theorem wordsAnswer_endsIn_overflow (hin : s.inLen.toNat ≤ s.params.inCap) (heven : s.inLen.toNat % 2 = 0)
    (hbyte : s.inLen.toNat ≤ 255) (hover : s.params.outCap < (header.length + 3) + s.inLen.toNat) :
    s.EndsIn (s.complete (s.withOpnd (wordsAnswer header))) .overflow :=
  State.withOpnd_endsIn_overflow hin (wordsAnswer_opnd heven hbyte) (s.append_opnd_length _)
    (by rwa [List.length_append])

theorem wordsAnswer_delivers (hw : s.params.wf) (hin : s.inLen.toNat ≤ s.params.inCap)
    (heven : s.inLen.toNat % 2 = 0) (hbyte : s.inLen.toNat ≤ 255)
    (hfit : (header.length + 3) + s.inLen.toNat ≤ s.params.outCap) :
    s.Delivers (s.complete (s.withOpnd (wordsAnswer header)))
      { out := header ++ [0x00#8, BitVec.ofNat 8 (s.inLen.toNat / 2), BitVec.ofNat 8 s.inLen.toNat] ++ s.opnd } :=
  State.withOpnd_delivers_pdu hw hin (wordsAnswer_opnd heven hbyte) (s.append_opnd_length _)
    (by rwa [List.length_append])

end

/-- Settles O37. -/
theorem writeRegistersCommand : Obligations.WriteRegistersCommand := by
  refine ⟨by decide, fun s hw => ?_⟩
  simp only [hi8_ofNat, lo8_ofNat]
  exact ⟨fun h => ⟨_, exec_pduenc16 s, wordsAnswer_endsIn_arg h⟩,
    fun hin heven hbyte hover => ⟨_, exec_pduenc16 s, wordsAnswer_endsIn_overflow hin heven hbyte hover⟩,
    fun hin heven hbyte hfit => ⟨_, exec_pduenc16 s, wordsAnswer_delivers hw hin heven hbyte hfit⟩⟩

/-- Settles O41. -/
theorem readWriteRegistersCommand : Obligations.ReadWriteRegistersCommand := by
  refine ⟨by decide, fun s hw => ?_⟩
  simp only [hi8_ofNat, lo8_ofNat]
  exact ⟨fun h => ⟨_, exec_pduenc23 s, wordsAnswer_endsIn_arg h⟩,
    fun hin heven hbyte hover => ⟨_, exec_pduenc23 s, wordsAnswer_endsIn_overflow hin heven hbyte hover⟩,
    fun hin heven hbyte hfit => ⟨_, exec_pduenc23 s, wordsAnswer_delivers hw hin heven hbyte hfit⟩⟩

/-! ## Coil streams: `PDUENC.15` -/

theorem packCoils_length (c : List Bool) : (packCoils c).length = (c.length + 7) / 8 := by
  rw [packCoils, List.length_map, List.length_range, ceil8]

/-- Coil `8j + i` is bit `i` of byte `j` (`43_pdu_encode.md` R173). -/
theorem packCoils_bit {c : List Bool} {j : Nat} {K : Byte} (h : (packCoils c)[j]? = some K) {i : Nat} (hi : i < 8) :
    K.getLsbD i = c.getD (8 * j + i) false := by
  have hK : K = BitVec.ofNat 8 (packChunk ((c.drop (8 * j)).take 8)) := by
    obtain ⟨hj, rfl⟩ := List.getElem?_eq_some_iff.1 h
    simp [packCoils]
  rw [hK, BitVec.getLsbD_ofNat, packChunk_bit]
  simp [hi]

/-- Settles O35. -/
theorem coilsPackLowBitFirst : Obligations.CoilsPackLowBitFirst :=
  fun c => ⟨packCoils_length c, fun _ _ h _ => packCoils_bit h⟩

/-- Coil `n` of the operand stream is on where its byte is not 0 (`30_encoding.md` R72). -/
theorem coilStream_opnd_getD (s : State) (n : Nat) :
    (coilStream s.opnd).getD n false = decide (n < s.inLen.toNat ∧ s.readByte .inBuf n ≠ 0#8) := by
  rw [coilStream, List.getD_eq_getElem?_getD, List.getElem?_map, s.opnd_getElem?]
  by_cases h : n < s.inLen.toNat
  · simp [h, bne, beq_eq_decide]
  · simp [h]

theorem packCoils_opnd_length (s : State) : (packCoils (coilStream s.opnd)).length = (s.inLen.toNat + 7) / 8 := by
  rw [packCoils_length, coilStream, List.length_map, s.opnd_length]

/-- What `PDUENC.15` answers to a stream (`43_pdu_encode.md` R174). -/
def coilsAnswer (address : W16) (B : List Byte) : Except CmdError ResultRecord :=
  if 255 < ceil8 B.length then .error .arg
  else pduResult ([0x0F#8] ++ be16 address ++ be16 (BitVec.ofNat 16 B.length) ++ [byteField (ceil8 B.length)] ++
    packCoils (coilStream B))

theorem exec_pduenc15 (s : State) : exec .pduenc15 s = .next (s.complete (s.withOpnd (coilsAnswer s.a0))) := rfl

section
variable {s : State}

/-- 2040 coils are 255 bytes; one coil more needs another byte. -/
theorem ceil8_opnd_le_iff : ceil8 s.opnd.length ≤ 255 ↔ s.inLen.toNat ≤ 2040 := by
  rw [s.opnd_length, ceil8]
  omega

theorem coilsAnswer_arg (address : W16) (h : 2040 < s.inLen.toNat) : coilsAnswer address s.opnd = .error .arg :=
  if_pos (by rwa [← Nat.not_le, ceil8_opnd_le_iff, Nat.not_le])

theorem coilsAnswer_opnd (address : W16) (h : s.inLen.toNat ≤ 2040) : coilsAnswer address s.opnd =
    pduResult ([0x0F#8, hi8 address, lo8 address, BitVec.ofNat 8 (s.inLen.toNat / 256),
      BitVec.ofNat 8 (s.inLen.toNat % 256), BitVec.ofNat 8 ((s.inLen.toNat + 7) / 8)] ++
      packCoils (coilStream s.opnd)) := by
  rw [coilsAnswer, if_neg (Nat.not_lt.2 (ceil8_opnd_le_iff.2 h)), s.opnd_length, be16_ofNat _ s.inLen.isLt]
  rfl

end

/-- Settles O36. -/
theorem writeCoilsCommand : Obligations.WriteCoilsCommand := by
  refine ⟨by decide, fun s hw => ?_⟩
  have hlen (header : List Byte) : (header ++ packCoils (coilStream s.opnd)).length =
      header.length + (s.inLen.toNat + 7) / 8 := by
    rw [List.length_append, packCoils_opnd_length]
  rw [hi8_ofNat s.a0, lo8_ofNat s.a0]
  refine ⟨fun h => ⟨_, exec_pduenc15 s, ?_⟩, fun hin hcoils hover => ⟨_, exec_pduenc15 s, ?_⟩,
    fun hin hcoils hfit => ⟨_, packCoils (coilStream s.opnd), exec_pduenc15 s, ?_, packCoils_opnd_length s,
      fun j b hb i hi => ?_⟩⟩
  · exact State.withOpnd_endsIn_arg_of_check fun hin => coilsAnswer_arg s.a0 (h.resolve_left (Nat.not_lt.2 hin))
  · exact State.withOpnd_endsIn_overflow hin (coilsAnswer_opnd s.a0 hcoils) (hlen _) hover
  · exact State.withOpnd_delivers_pdu hw hin (coilsAnswer_opnd s.a0 hcoils) (hlen _) hfit
  · rw [packCoils_bit hb hi, coilStream_opnd_getD]

/-! ## Read sub-requests: `PDUENC.20` -/

/-- What `PDUENC.20` answers to a stream (`43_pdu_encode.md` R177). -/
def readFileAnswer (B : List Byte) : Except CmdError ResultRecord :=
  if B.length % 6 ≠ 0 then .error .arg
  else if 255 < 7 * (B.length / 6) then .error .arg
  else pduResult ([0x14#8, byteField (7 * (B.length / 6))] ++ readSubs B)

theorem exec_pduenc20 (s : State) : exec .pduenc20 s = .next (s.complete (s.withOpnd readFileAnswer)) := rfl

/-- 36 sub-requests are 252 bytes of PDU; 37 would be 259. -/
theorem readFileAnswer_arg {B : List Byte} (h : B.length % 6 ≠ 0 ∨ 36 < B.length / 6) :
    readFileAnswer B = .error .arg := by
  by_cases hsix : B.length % 6 ≠ 0
  · exact if_pos hsix
  · exact (if_neg hsix).trans (if_pos (by omega))

section
variable {items : List (List Byte)} (hsix : ∀ x ∈ items, x.length = 6)
include hsix

theorem readFileAnswer_items (hcount : items.length ≤ 36) : readFileAnswer items.flatten =
    pduResult ([0x14#8, BitVec.ofNat 8 (7 * items.length)] ++ (items.map fun x => 0x06#8 :: x).flatten) := by
  have hn : items.flatten.length / 6 = items.length := by rw [flatten_six items hsix]; omega
  rw [readFileAnswer, if_neg (by rw [flatten_six items hsix]; omega), hn, if_neg (by omega), readSubs_eq items hsix]
  rfl

/-- The reference type before an item makes seven bytes of its six (`43_pdu_encode.md` R177). -/
theorem typedItems_length : (items.map fun x => 0x06#8 :: x).flatten.length = 7 * items.length := by
  induction items with
  | nil => rfl
  | cons x items ih =>
    have hx := hsix x List.mem_cons_self
    have hrest := ih fun y hy => hsix y (List.mem_cons_of_mem x hy)
    simp only [List.map_cons, List.flatten_cons, List.length_append, List.length_cons]
    omega

end

/-- Settles O38. -/
theorem readFileRecordCommand : Obligations.ReadFileRecordCommand := by
  refine ⟨by decide, fun s hw => ⟨fun h => ⟨_, exec_pduenc20 s, ?_⟩, fun items hsix hstream hin hcount => ?_⟩⟩
  · exact State.withOpnd_endsIn_arg_of_check fun hin =>
      readFileAnswer_arg (by rw [s.opnd_length]; exact h.resolve_left (Nat.not_lt.2 hin))
  · have hlen (header : List Byte) : (header ++ (items.map fun x => 0x06#8 :: x).flatten).length =
        header.length + 7 * items.length := by
      rw [List.length_append, typedItems_length hsix]
    have hpdu := readFileAnswer_items hsix hcount
    rw [← hstream] at hpdu
    exact ⟨fun hover => ⟨_, exec_pduenc20 s, State.withOpnd_endsIn_overflow hin hpdu (hlen _) hover⟩,
      fun hfit => ⟨_, exec_pduenc20 s, State.withOpnd_delivers_pdu hw hin hpdu (hlen _) hfit⟩⟩

/-! ## Write sub-requests: `PDUENC.21` -/

/-- What `PDUENC.21` answers to a stream (`43_pdu_encode.md` R178). -/
def writeFileAnswer (wfr : RecLen) (B : List Byte) : Except CmdError ResultRecord :=
  match writeSubs B.length B with
  | none => .error .arg
  | some subs =>
    let body := (subs.map (WriteSub.emit wfr)).flatten
    if 255 < body.length then .error .arg
    else pduResult ([0x15#8, byteField body.length] ++ body)

theorem exec_pduenc21 (s : State) :
    exec .pduenc21 s = .next (s.complete (s.withOpnd (writeFileAnswer s.params.wfrReclen))) := rfl

/-- The record length of a sub-request stands in the PDU where `WFR_RECLEN` is present (`43_pdu_encode.md` R178). -/
theorem WriteSub.emit_eq (wfr : RecLen) : WriteSub.emit wfr = fun u =>
    [0x06#8] ++ be16 u.file ++ be16 u.record ++ (if wfr = .present then be16 u.count else []) ++ u.data := by
  funext u
  cases wfr <;> rfl

section
variable {s : State} {wfr : RecLen}

theorem writeFileAnswer_of_no_stream (h : ¬ ∃ subs, IsWriteStream s.opnd subs) :
    writeFileAnswer wfr s.opnd = .error .arg := by
  have hnone : writeSubs s.opnd.length s.opnd = none :=
    Option.eq_none_iff_forall_ne_some.2 fun subs hsubs => h ⟨subs, writeSubs_iff.1 hsubs⟩
  rw [writeFileAnswer, hnone]

variable {subs : List WriteSub} (hsubs : IsWriteStream s.opnd subs)
include hsubs

theorem writeFileAnswer_of_stream : writeFileAnswer wfr s.opnd =
    if 255 < writeTotal wfr subs then .error .arg
    else pduResult ([0x15#8, BitVec.ofNat 8 (writeTotal wfr subs)] ++ (subs.map (WriteSub.emit wfr)).flatten) := by
  rw [writeFileAnswer, writeSubs_iff.2 hsubs, ← emit_total wfr subs hsubs.data]
  rfl

end

/-- Settles O39. -/
theorem writeFileRecordCommand : Obligations.WriteFileRecordCommand := by
  refine ⟨by decide, fun s hw => ⟨fun h => ⟨_, exec_pduenc21 s, ?_⟩, fun subs hsubs hin => ?_⟩⟩
  · exact State.withOpnd_endsIn_arg_of_check fun hin =>
      writeFileAnswer_of_no_stream (h.resolve_left (Nat.not_lt.2 hin))
  · rw [← WriteSub.emit_eq]
    have hlen (header : List Byte) : (header ++ (subs.map (WriteSub.emit s.params.wfrReclen)).flatten).length =
        header.length + writeTotal s.params.wfrReclen subs := by
      rw [List.length_append, emit_total _ subs hsubs.data]
    have hanswer := writeFileAnswer_of_stream hsubs (wfr := s.params.wfrReclen)
    exact ⟨fun hlong => ⟨_, exec_pduenc21 s, State.withOpnd_endsIn_arg_of_check fun _ => hanswer.trans (if_pos hlong)⟩,
      fun hbyte hover => ⟨_, exec_pduenc21 s, State.withOpnd_endsIn_overflow hin
        (hanswer.trans (if_neg (Nat.not_lt.2 hbyte))) (hlen _) hover⟩,
      fun hbyte hfit => ⟨_, exec_pduenc21 s, State.withOpnd_delivers_pdu hw hin
        (hanswer.trans (if_neg (Nat.not_lt.2 hbyte))) (hlen _) hfit⟩⟩

/-! ## Empty streams (`43_pdu_encode.md` R184) -/

/-- Settles O43: the success clauses of the six commands, at `IN_LEN` 0. -/
theorem emptyListsAreLegal : Obligations.EmptyListsAreLegal := by
  intro s hw hten hzero
  have hn : s.inLen.toNat = 0 := by rw [hzero]; rfl
  have hin : s.inLen.toNat ≤ s.params.inCap := by omega
  have hopnd : s.opnd = [] := List.length_eq_zero_iff.1 (s.opnd_length.trans hn)
  have hsubs : IsWriteStream s.opnd [] := ⟨hopnd, nofun⟩
  have htotal : writeTotal s.params.wfrReclen [] = 0 := rfl
  obtain ⟨-, -, h8⟩ := diagnosticsPdu.2 s hw
  obtain ⟨-, -, h15⟩ := writeCoilsCommand.2 s hw
  obtain ⟨-, -, h16⟩ := writeRegistersCommand.2 s hw
  obtain ⟨-, h20⟩ := (readFileRecordCommand.2 s hw).2 [] nofun hopnd hin (Nat.zero_le 36)
  obtain ⟨-, -, h21⟩ := (writeFileRecordCommand.2 s hw).2 [] hsubs hin
  obtain ⟨-, -, h23⟩ := readWriteRegistersCommand.2 s hw
  obtain ⟨t, K, ht, hd, hK, -⟩ := h15 hin (by omega) (by omega)
  obtain rfl : K = [] := List.length_eq_zero_iff.1 (by rw [hK, hn])
  rw [hn] at hd
  refine ⟨?_, ⟨t, ht, hd⟩, ?_, h20 (by rw [List.length_nil]; omega), h21 (by omega) (by omega), ?_⟩
  · simpa only [hopnd, List.append_nil] using h8 hin (by omega)
  · simpa only [hopnd, hn, Nat.zero_div, List.append_nil] using h16 hin (by omega) (by omega) (by omega)
  · simpa only [hopnd, hn, Nat.zero_div, List.append_nil] using h23 hin (by omega) (by omega) (by omega)

end Sys2Proof.Machine
end

section
/-! PROOFS. `XFER` as a command (`44_transfer.md` R200). -/

namespace Sys2Proof.Machine

/-- The overflow of `XFER`: the sequence in `OUT` is longer than `IN` (`44_transfer.md` R200). -/
theorem exec_xfer_overflows {s : State} (h : s.params.inCap < s.outLen.toNat) :
    exec .xfer s = .next (s.raise .overflow) :=
  congrArg _ (if_pos h)

/-- A transfer keeps `OUT` and `OUT_LEN`, so a second one copies over `IN` the bytes that stand there. -/
theorem State.transfer_transfer_readIn (s : State) (k : Nat) :
    s.transfer.transfer.readByte .inBuf k = s.transfer.readByte .inBuf k := by
  rw [s.transfer.transfer_readIn, s.transfer_outLen, s.transfer_readOut, s.transfer_readIn]
  by_cases hk : k < s.outLen.toNat
  · rw [if_pos hk, if_pos hk]
  · rw [if_neg hk]

/-- Settles O44. -/
theorem xferCommand : Obligations.XferCommand := by
  refine ⟨by decide, fun _ => decode_of_sel_ne_zero (op := 6) (by decide), fun s => ⟨fun hover => ?_, fun hfit => ?_⟩⟩
  · exact ⟨_, exec_xfer_overflows hover, s.raise_endsIn .overflow⟩
  · have hstatus : s.transfer.status = 0x0000#16 := s.transfer_status.trans (by decide)
    have hagain : exec .xfer s.transfer = .next s.transfer.transfer := exec_xfer_fits hfit
    exact ⟨s.transfer, exec_xfer_fits hfit, s.transfer_inLen, hstatus, s.transfer_readIn, s.transfer_readOut, rfl,
      s.transfer.transfer, hagain, s.transfer.transfer_inLen, s.transfer_transfer_result, s.transfer_transfer_readIn⟩

end Sys2Proof.Machine
end

section
/-! PROOFS. The words that spell no command and the errors they end in (`60_exceptions.md` R252, R253), and the host
that looks at `STATUS.ERR` (R263, R270). -/

namespace Sys2Proof.Machine

/-! ## What the decoder rejects -/

theorem decodeOp_eq_illegal_iff (op sel : Nat) : decodeOp op sel = .illegal ↔
    op = 0 ∨ 7 ≤ op ∨ ((op = 1 ∨ op = 2 ∨ op = 6) ∧ sel ≠ 0) ∨ ((op = 3 ∨ op = 4) ∧ 2 ≤ sel) := by
  unfold decodeOp
  split
  case h_7 => split <;> simp
  case h_9 => simp only [imp_false, true_iff] at *; omega
  all_goals simp

theorem decodeOp_eq_unsupportedFc_iff (op sel : Nat) :
    decodeOp op sel = .unsupportedFc ↔ op = 5 ∧ pduencOf sel = none := by
  unfold decodeOp
  split
  case h_7 => split <;> simp [*]
  case h_9 => simp_all
  all_goals simp

/-- The nineteen function codes of `30_encoding.md` R63. -/
theorem pduencOf_eq_none_iff (n : Nat) :
    pduencOf n = none ↔ n ∉ [1, 2, 3, 4, 5, 6, 7, 8, 11, 12, 15, 16, 17, 20, 21, 22, 23, 24, 43] := by
  unfold pduencOf
  split
  case h_20 => simp_all
  all_goals simp

/-- A word with `ZERO` not 0 is illegal, whatever its other fields (`30_encoding.md` R64). -/
theorem decode_of_zero_field_ne {w : W16} (h : w.toNat / 256 % 16 ≠ 0) : decode w = .illegal := by
  have hzero : w.extractLsb' 8 4 ≠ 0#4 := by
    rw [ne_eq, ← BitVec.toNat_inj, BitVec.extractLsb'_toNat, Nat.shiftRight_eq_div_pow]
    exact h
  exact if_neg hzero

theorem decode_of_zero_field {w : W16} (h : w.toNat / 256 % 16 = 0) :
    decode w = decodeOp (w.toNat / 4096) (w.toNat % 256) :=
  decode_of_zero (by omega)

theorem decode_eq_illegal_iff (w : W16) : decode w = .illegal ↔
    (w.toNat / 256 % 16 ≠ 0 ∨ w.toNat / 4096 = 0 ∨ 7 ≤ w.toNat / 4096 ∨
      ((w.toNat / 4096 = 1 ∨ w.toNat / 4096 = 2 ∨ w.toNat / 4096 = 6) ∧ w.toNat % 256 ≠ 0) ∨
      ((w.toNat / 4096 = 3 ∨ w.toNat / 4096 = 4) ∧ 2 ≤ w.toNat % 256)) := by
  by_cases hzero : w.toNat / 256 % 16 = 0
  · rw [decode_of_zero_field hzero, decodeOp_eq_illegal_iff, or_iff_right (not_not.2 hzero)]
  · exact iff_of_true (decode_of_zero_field_ne hzero) (.inl hzero)

theorem decode_eq_unsupportedFc_iff (w : W16) : decode w = .unsupportedFc ↔
    (w.toNat / 4096 = 5 ∧ w.toNat / 256 % 16 = 0 ∧
      w.toNat % 256 ∉ [1, 2, 3, 4, 5, 6, 7, 8, 11, 12, 15, 16, 17, 20, 21, 22, 23, 24, 43]) := by
  by_cases hzero : w.toNat / 256 % 16 = 0
  · rw [decode_of_zero_field hzero, decodeOp_eq_unsupportedFc_iff, pduencOf_eq_none_iff, and_iff_right hzero]
  · rw [decode_of_zero_field_ne hzero]
    exact iff_of_false nofun fun ⟨_, hz, _⟩ => hzero hz

/-! ## How many words are illegal -/

/-- The words that are not illegal: those of the commands outside `PDUENC`, and every `SEL` of `PDUENC`. -/
def wordsNotIllegal : Finset Nat :=
  {0x1000, 0x2000, 0x3000, 0x3001, 0x4000, 0x4001, 0x6000} ∪ Finset.Ico 0x5000 0x5100

theorem mem_wordsNotIllegal {n : Nat} : n ∈ wordsNotIllegal ↔
    (n = 0x1000 ∨ n = 0x2000 ∨ n = 0x3000 ∨ n = 0x3001 ∨ n = 0x4000 ∨ n = 0x4001 ∨ n = 0x6000) ∨
      0x5000 ≤ n ∧ n < 0x5100 := by
  simp only [wordsNotIllegal, Finset.mem_union, Finset.mem_insert, Finset.mem_singleton, Finset.mem_Ico]

theorem wordsNotIllegal_card : wordsNotIllegal.card = 263 := by
  rw [wordsNotIllegal, Finset.card_union_of_disjoint (by simp), Nat.card_Ico]
  rfl

theorem decode_ofNat_eq_illegal_iff {n : Nat} (h : n < 65536) :
    decode (BitVec.ofNat 16 n) = .illegal ↔ n ∉ wordsNotIllegal := by
  rw [decode_eq_illegal_iff, BitVec.toNat_ofNat, Nat.mod_eq_of_lt h, mem_wordsNotIllegal]
  omega

theorem illegalWords_eq_sdiff : {n ∈ Finset.range 65536 | decode (BitVec.ofNat 16 n) = .illegal} =
    Finset.range 65536 \ wordsNotIllegal := by
  ext n
  rw [Finset.mem_filter, Finset.mem_sdiff]
  exact and_congr_right fun hn => decode_ofNat_eq_illegal_iff (Finset.mem_range.1 hn)

theorem wordsNotIllegal_subset : wordsNotIllegal ⊆ Finset.range 65536 := by
  intro n hn
  rw [mem_wordsNotIllegal] at hn
  rw [Finset.mem_range]
  omega

theorem illegalWords_card :
    {n ∈ Finset.range 65536 | decode (BitVec.ofNat 16 n) = .illegal}.card = 65273 := by
  rw [illegalWords_eq_sdiff, Finset.card_sdiff_of_subset wordsNotIllegal_subset, wordsNotIllegal_card,
    Finset.card_range]

/-! ## What issuing such a word does -/

section
variable {s : State} {w : W16} {rest : List HostAction}

/-- A host write of a word to `CMD` issues it. -/
theorem step_issue (h : s.pending = .writeReg .cmd w :: rest) : step s = issue w (s.setPending rest) :=
  step_cons h

theorem issue_illegal (h : decode w = .illegal) : issue w s = .next ((s.setCmd w).raise .illegalCmd) := by
  rw [issue, h]

theorem issue_unsupportedFc (h : decode w = .unsupportedFc) :
    issue w s = .next ((s.setCmd w).raise .unsupportedFc) := by
  rw [issue, h]

/-- A word whose issue raises an error ends in the error result, with the word in `CMD` (`60_exceptions.md` R251). -/
theorem step_endsIn_of_issue {e : CmdError} (hp : s.pending = .writeReg .cmd w :: rest)
    (h : ∀ s, issue w s = .next ((s.setCmd w).raise e)) :
    ∃ t, step s = .next t ∧ t.cmd = w ∧ State.EndsIn { s with cmd := w, pending := rest } t e :=
  ⟨_, (step_issue hp).trans (h _), rfl, State.raise_endsIn { s with cmd := w, pending := rest } e⟩

end

/-- Settles O3. -/
theorem illegalWordsEndInIllegalCmd : Obligations.IllegalWordsEndInIllegalCmd :=
  ⟨decode_eq_illegal_iff, illegalWords_card, fun _ _ _ hp hw => step_endsIn_of_issue hp fun _ => issue_illegal hw⟩

/-- Settles O4. -/
theorem unsupportedFunctionsEndInUnsupportedFc : Obligations.UnsupportedFunctionsEndInUnsupportedFc :=
  ⟨decode_eq_unsupportedFc_iff, fun _ _ _ hp hw => step_endsIn_of_issue hp fun _ => issue_unsupportedFc hw⟩

/-! ## The host that looks at `STATUS.ERR` -/

/-- `STATUS.ERR` is `STATUS` modulo 8 (`10_state.md` R15). -/
theorem State.err_eq_zero_iff (s : State) : s.err = 0#3 ↔ s.status.toNat % 8 = 0 := by
  rw [← BitVec.toNat_inj, State.err, BitVec.extractLsb'_toNat, Nat.shiftRight_zero]
  rfl

/-- Settles O10. -/
theorem hostDecisionAndIdleKeepTheBlock : Obligations.HostDecisionAndIdleKeepTheBlock := by
  refine ⟨fun s n rest hp => ?_, fun _ => step_idle⟩
  rw [step_cons hp, hostAct]
  by_cases herr : s.err = 0#3
  · rw [if_pos (s.err_eq_zero_iff.1 herr)]
    exact congrArg _ (if_pos herr)
  · rw [if_neg (mt s.err_eq_zero_iff.2 herr)]
    exact congrArg _ (if_neg herr)

end Sys2Proof.Machine
end

section
/-! PROOFS. Which error a command reports, by the lists of causes and the priority of `60_exceptions.md` R254 to R256
and R259, and the one error result of R251. -/

namespace Sys2Proof.Machine

variable {s t : State}

/-- Settles O49, from the three ends of a command: only the first of them leaves an error. -/
theorem errorResultIsUniform : Obligations.ErrorResultIsUniform := by
  intro i s t h herr
  rcases exec_cases h with ⟨e, rfl⟩ | ⟨r, hr, -, rfl, -⟩ | ⟨-, -, rfl⟩
  · exact ⟨e, s.raise_err e, s.raise_endsIn e, s.raise_produced e⟩
  · exact absurd (State.deliver_err hr) herr
  · exact absurd rfl herr

/-! ## The first error of an order -/

/-- `err` is the first error, in the order of `60_exceptions.md` R259, whose cause applies, and 0 where none does. -/
inductive ReportsFirst (argC framingC overflowC : Prop) : BitVec 3 → Prop
  | arg (ha : argC) : ReportsFirst argC framingC overflowC CmdError.arg.code
  | framing (ha : ¬ argC) (hf : framingC) : ReportsFirst argC framingC overflowC CmdError.framing.code
  | overflow (ha : ¬ argC) (hf : ¬ framingC) (ho : overflowC) :
    ReportsFirst argC framingC overflowC CmdError.overflow.code
  | success (ha : ¬ argC) (hf : ¬ framingC) (ho : ¬ overflowC) : ReportsFirst argC framingC overflowC 0#3

section
variable {argC framingC overflowC : Prop} {err : BitVec 3}

theorem ReportsFirst.arg_iff (h : ReportsFirst argC framingC overflowC err) : err = 2#3 ↔ argC := by
  cases h with
  | arg ha => exact iff_of_true rfl ha
  | framing ha | overflow ha | success ha => exact iff_of_false (by decide) ha

theorem ReportsFirst.framing_iff (h : ReportsFirst argC framingC overflowC err) :
    err = 1#3 ↔ ¬ argC ∧ framingC := by
  cases h with
  | arg ha => exact iff_of_false (by decide) fun ⟨hn, _⟩ => hn ha
  | framing ha hf => exact iff_of_true rfl ⟨ha, hf⟩
  | overflow _ hf | success _ hf => exact iff_of_false (by decide) fun ⟨_, hn⟩ => hf hn

theorem ReportsFirst.overflow_iff (h : ReportsFirst argC framingC overflowC err) :
    err = 5#3 ↔ ¬ argC ∧ ¬ framingC ∧ overflowC := by
  cases h with
  | arg ha => exact iff_of_false (by decide) fun ⟨hn, _⟩ => hn ha
  | framing _ hf => exact iff_of_false (by decide) fun ⟨_, hn, _⟩ => hn hf
  | overflow ha hf ho => exact iff_of_true rfl ⟨ha, hf, ho⟩
  | success _ _ ho => exact iff_of_false (by decide) fun ⟨_, _, hn⟩ => ho hn

theorem ReportsFirst.success_iff (h : ReportsFirst argC framingC overflowC err) :
    err = 0#3 ↔ ¬ argC ∧ ¬ framingC ∧ ¬ overflowC := by
  cases h with
  | arg ha => exact iff_of_false (by decide) fun ⟨hn, _⟩ => hn ha
  | framing _ hf => exact iff_of_false (by decide) fun ⟨_, hn, _⟩ => hn hf
  | overflow _ _ ho => exact iff_of_false (by decide) fun ⟨_, _, hn⟩ => hn ho
  | success ha hf ho => exact iff_of_true rfl ⟨ha, hf, ho⟩

/-! ## What the end of a command reports, by the shape of its checks -/

theorem reportsFirst_arg (ha : argC) : ReportsFirst argC framingC overflowC (s.complete (.error .arg)).err := by
  rw [s.complete_error, s.raise_err]
  exact .arg ha

theorem reportsFirst_framing (ha : ¬ argC) (hf : framingC) :
    ReportsFirst argC framingC overflowC (s.complete (.error .framing)).err := by
  rw [s.complete_error, s.raise_err]
  exact .framing ha hf

/-- A record is delivered, or overflows where its sequence does not fit `OUT`. -/
theorem reportsFirst_ok {r : ResultRecord} (hr : r.Successful) (ha : ¬ argC) (hf : ¬ framingC)
    (ho : s.params.outCap < r.out.length ↔ overflowC) :
    ReportsFirst argC framingC overflowC (s.complete (.ok r)).err := by
  by_cases hover : s.params.outCap < r.out.length
  · rw [s.complete_overflow hover, s.raise_err]
    exact .overflow ha hf (ho.1 hover)
  · rw [s.complete_ok (Nat.not_lt.1 hover), State.deliver_err hr]
    exact .success ha hf (mt ho.2 hover)

/-- A check of a command's own that answers `Arg`. -/
theorem reportsFirst_check {p : Prop} [Decidable p] {c : Except CmdError ResultRecord} (hp : p → argC)
    (hc : ¬ p → ReportsFirst argC framingC overflowC (s.complete c).err) :
    ReportsFirst argC framingC overflowC (s.complete (if p then .error .arg else c)).err := by
  split
  · exact reportsFirst_arg (hp ‹_›)
  · exact hc ‹_›

/-- The check of the operand stream. -/
theorem reportsFirst_withOpnd {k : List Byte → Except CmdError ResultRecord}
    (ha : s.params.inCap < s.inLen.toNat → argC)
    (hk : ¬ s.params.inCap < s.inLen.toNat → ReportsFirst argC framingC overflowC (s.complete (k s.opnd)).err) :
    ReportsFirst argC framingC overflowC (s.complete (s.withOpnd k)).err :=
  reportsFirst_check ha hk

end

/-! ## The commands -/

/-- Every admitted `OUT` has room for a PDU of seven bytes (`00_scope.md` R5). -/
theorem reportsFirst_short_pdu {pdu : List Byte} {argC : Prop} (hw : s.params.wf) (ha : ¬ argC)
    (hlen : pdu.length ≤ 7) :
    ReportsFirst argC False False (s.complete (pduResult pdu)).err :=
  reportsFirst_ok (.inl rfl) ha id (iff_of_false (Nat.not_lt.2 (hlen.trans hw.2.1)) id)

/-- A decoder: the framing error where nothing decodes, else a record whose sequence is the PDU. -/
theorem reportsFirst_decoded {w : Nat} {widen : BitVec w → W16} {d : Option (DecodedFrame w)}
    {argC framingC overflowC : Prop} (ha : ¬ argC) (hf : d = none ↔ framingC)
    (ho : ∀ f ∈ d, (s.params.outCap < f.pdu.length ↔ overflowC)) :
    ReportsFirst argC framingC overflowC (s.complete (decodedResult widen d)).err := by
  cases d with
  | none => exact reportsFirst_framing ha (hf.1 rfl)
  | some f => exact reportsFirst_ok (answers_decoded widen (some f) _ rfl) ha (mt hf.2 nofun) (ho f rfl)

theorem decRtu_eq_none_iff (F : List Byte) : decRtu F = none ↔ F.length < 3 := by
  refine ⟨fun h => Nat.not_le.1 fun hlen => ?_, decRtu_of_short⟩
  obtain ⟨d, hd, -⟩ := decRtu_of_le hlen
  cases h.symm.trans hd

theorem decRtu_pdu_length {F : List Byte} {d : DecodedFrame 16} (h : decRtu F = some d) :
    d.pdu.length = F.length - 3 := by
  have hlen : 3 ≤ F.length := Nat.not_lt.1 fun hshort => by cases h.symm.trans (decRtu_of_short hshort)
  obtain ⟨d', hd', -, hpdu, -⟩ := decRtu_of_le hlen
  cases h.symm.trans hd'
  rw [hpdu, subseq_length]
  omega

theorem decAscii_eq_none_iff (F : List Byte) : decAscii F = none ↔ ¬ AsciiFrame F := by
  refine ⟨fun h hframe => ?_, decAscii_of_not_frame⟩
  obtain ⟨D, d, -, -, hd, -⟩ := decAscii_of_frame hframe
  cases h.symm.trans hd

theorem decAscii_pdu_length {F : List Byte} {d : DecodedFrame 8} (h : decAscii F = some d) :
    d.pdu.length = (F.length - 3) / 2 - 2 := by
  have hframe : AsciiFrame F := by
    by_contra hn
    cases h.symm.trans (decAscii_of_not_frame hn)
  obtain ⟨D, d', -, hD, hd', -, -, hpdu, -⟩ := decAscii_of_frame hframe
  cases h.symm.trans hd'
  rw [hpdu, hD]

/-- An encoder (`41_frame_encode.md` R125), by the length of its frames. -/
theorem encodeFrame_reportsFirst {enc : Byte → List Byte → List Byte} {checksum : List Byte → W16} {n : Nat}
    (hlen : (enc (lo8 s.a0) s.opnd).length = n) :
    ReportsFirst (s.params.inCap < s.inLen.toNat ∨ 247 < s.a0.toNat) False (s.params.outCap < n)
      (s.complete (encodeFrame enc checksum s)).err :=
  reportsFirst_withOpnd .inl fun hin => reportsFirst_check .inr fun ha =>
    reportsFirst_ok (.inl rfl) (not_or.2 ⟨hin, ha⟩) id (by rw [hlen])

theorem coilsAnswer_reportsFirst (address : W16) :
    ReportsFirst (s.params.inCap < s.inLen.toNat ∨ 2040 < s.inLen.toNat) False
      (s.params.outCap < 6 + (s.inLen.toNat + 7) / 8) (s.complete (s.withOpnd (coilsAnswer address))).err := by
  have hcoils : 255 < ceil8 s.opnd.length ↔ 2040 < s.inLen.toNat := by
    rw [← Nat.not_le, ceil8_opnd_le_iff, Nat.not_le]
  refine reportsFirst_withOpnd .inl fun hin => reportsFirst_check (.inr ∘ hcoils.1) fun hn =>
    reportsFirst_ok (.inl rfl) (not_or.2 ⟨hin, mt hcoils.2 hn⟩) id ?_
  rw [List.length_append, packCoils_opnd_length]
  rfl

theorem wordsAnswer_reportsFirst (header : List Byte) :
    ReportsFirst (s.params.inCap < s.inLen.toNat ∨ s.inLen.toNat % 2 = 1 ∨ 255 < s.inLen.toNat) False
      (s.params.outCap < (header.length + 3) + s.inLen.toNat)
      (s.complete (s.withOpnd (wordsAnswer header))).err := by
  have hlen := s.opnd_length
  refine reportsFirst_withOpnd .inl fun hin => reportsFirst_check (fun hodd => by omega) fun heven =>
    reportsFirst_check (fun hlong => by omega) fun hbyte => reportsFirst_ok (.inl rfl) (by omega) id ?_
  rw [s.append_opnd_length, List.length_append, List.length_append]
  rfl

/-- The reference type makes seven bytes of each whole item of six (`43_pdu_encode.md` R177). -/
theorem readSubs_length (B : List Byte) : (readSubs B).length = 7 * (B.length / 6) := by
  have hseven : ∀ m ∈ ((List.range (B.length / 6)).map fun n => 0x06#8 :: subseq B (6 * n) (6 * n + 6)).map
      List.length, m = 7 := by
    simp only [List.map_map, List.mem_map, List.mem_range]
    rintro _ ⟨n, hn, rfl⟩
    rw [Function.comp_apply, List.length_cons, subseq_length]
    omega
  rw [readSubs, List.length_flatten, List.sum_eq_card_nsmul _ 7 hseven, List.length_map, List.length_map,
    List.length_range, smul_eq_mul, Nat.mul_comm]

theorem readFileAnswer_reportsFirst :
    ReportsFirst
      (s.params.inCap < s.inLen.toNat ∨ s.inLen.toNat % 6 ≠ 0 ∨ 255 < 7 * (s.inLen.toNat / 6)) False
      (s.params.outCap < 2 + 7 * (s.inLen.toNat / 6)) (s.complete (s.withOpnd readFileAnswer)).err := by
  rw [← s.opnd_length]
  refine reportsFirst_withOpnd (fun h => .inl (s.opnd_length ▸ h)) fun hin =>
    reportsFirst_check (.inr ∘ .inl) fun hsix => reportsFirst_check (.inr ∘ .inr) fun hbyte =>
    reportsFirst_ok (.inl rfl) (not_or.2 ⟨s.opnd_length ▸ hin, not_or.2 ⟨hsix, hbyte⟩⟩) id ?_
  rw [List.length_append, readSubs_length]
  rfl

/-- A stream is the image of one list of sub-requests at most. -/
theorem IsWriteStream.unique {subs subs' : List WriteSub} (h : IsWriteStream s.opnd subs)
    (h' : IsWriteStream s.opnd subs') : subs = subs' :=
  Option.some.inj ((writeSubs_iff.2 h).symm.trans (writeSubs_iff.2 h'))

theorem writeFileAnswer_reportsFirst (wfr : RecLen) :
    ReportsFirst
      (s.params.inCap < s.inLen.toNat ∨ ¬ ∃ subs, IsWriteStream s.opnd subs ∧ writeTotal wfr subs ≤ 255) False
      (∃ subs, IsWriteStream s.opnd subs ∧ s.params.outCap < 2 + writeTotal wfr subs)
      (s.complete (s.withOpnd (writeFileAnswer wfr))).err := by
  refine reportsFirst_withOpnd .inl fun hin => ?_
  by_cases hstream : ∃ subs, IsWriteStream s.opnd subs
  · obtain ⟨subs, hsubs⟩ := hstream
    have hexists (p : List WriteSub → Prop) : (∃ subs, IsWriteStream s.opnd subs ∧ p subs) ↔ p subs :=
      ⟨fun ⟨_, h', hp⟩ => h'.unique hsubs ▸ hp, fun hp => ⟨subs, hsubs, hp⟩⟩
    rw [hexists, hexists, writeFileAnswer_of_stream hsubs, Nat.not_le]
    refine reportsFirst_check .inr fun hbyte => reportsFirst_ok (.inl rfl) (not_or.2 ⟨hin, hbyte⟩) id ?_
    rw [List.length_append, emit_total wfr subs hsubs.data]
    rfl
  · rw [writeFileAnswer_of_no_stream hstream]
    exact reportsFirst_arg (.inr fun ⟨subs, hsubs, _⟩ => hstream ⟨subs, hsubs⟩)

theorem exec_xfer_reportsFirst (h : exec .xfer s = .next t) :
    ReportsFirst False False (s.params.inCap < s.outLen.toNat) t.err := by
  by_cases hover : s.params.inCap < s.outLen.toNat
  · cases (exec_xfer_overflows hover).symm.trans h
    rw [s.raise_err]
    exact .overflow id id hover
  · cases (exec_xfer_fits (Nat.not_lt.1 hover)).symm.trans h
    exact .success id id hover

/-- Every command reports the first error whose cause applies (`60_exceptions.md` R259). -/
theorem exec_reportsFirst {i : Instr} (hw : s.params.wf) (h : exec i s = .next t) :
    ReportsFirst (argCause i s) (framingCause i s) (overflowCause i s) t.err := by
  cases i with
  | xfer => exact exec_xfer_reportsFirst h
  | crc16 | lrc8 =>
    cases h
    exact reportsFirst_withOpnd id fun hin =>
      reportsFirst_ok (.inl rfl) hin id (iff_of_false (Nat.not_lt_zero _) id)
  | encfRtu => cases h; exact encodeFrame_reportsFirst (by rw [encRtu_length, s.opnd_length])
  | encfAscii => cases h; exact encodeFrame_reportsFirst (by rw [encAscii_length, s.opnd_length])
  | decfRtu =>
    cases h
    refine reportsFirst_withOpnd id fun hin => reportsFirst_decoded hin ?_ fun d hd => ?_
    · rw [decRtu_eq_none_iff, s.opnd_length]
      rfl
    · rw [decRtu_pdu_length hd, s.opnd_length]
      rfl
  | decfAscii =>
    cases h
    refine reportsFirst_withOpnd id fun hin =>
      reportsFirst_decoded hin (decAscii_eq_none_iff s.opnd) fun d hd => ?_
    rw [decAscii_pdu_length hd, s.opnd_length]
    rfl
  | pduenc8 =>
    cases h
    exact reportsFirst_withOpnd id fun hin => reportsFirst_ok (.inl rfl) hin id (by rw [s.append_opnd_length]; rfl)
  | pduenc15 => cases h; exact coilsAnswer_reportsFirst s.a0
  | pduenc16 => cases h; exact wordsAnswer_reportsFirst ([0x10#8] ++ be16 s.a0)
  | pduenc23 => cases h; exact wordsAnswer_reportsFirst ([0x17#8] ++ be16 s.a0 ++ be16 s.a1 ++ be16 s.a2)
  | pduenc20 => cases h; exact readFileAnswer_reportsFirst
  | pduenc21 => cases h; exact writeFileAnswer_reportsFirst s.params.wfrReclen
  | pduenc43 => cases h; exact reportsFirst_check id fun hn => reportsFirst_short_pdu hw hn (by decide : 4 ≤ 7)
  | pduenc1 | pduenc2 | pduenc3 | pduenc4 | pduenc5 | pduenc6 | pduenc7 | pduenc11 | pduenc12 | pduenc17
  | pduenc22 | pduenc24 => cases h; exact reportsFirst_short_pdu hw id (by simp)

/-! ## The statements -/

/-- Settles O46. -/
theorem argExactlyForItsCauses : Obligations.ArgExactlyForItsCauses :=
  fun _ _ _ hw h => (exec_reportsFirst hw h).arg_iff

/-- Settles O47. -/
theorem framingExactlyForItsCauses : Obligations.FramingExactlyForItsCauses :=
  fun _ _ _ hw h => (exec_reportsFirst hw h).framing_iff

/-- Where both buffers have one capacity, what `DECF` or `XFER` produces is no longer than a stream or a sequence that
fits (`60_exceptions.md` R256). -/
theorem not_overflowCause_of_equal_caps {i : Instr} (hcap : s.params.inCap = s.params.outCap)
    (hout : s.outLen.toNat ≤ s.params.outCap) (hi : i = .decfRtu ∨ i = .decfAscii ∨ i = .xfer)
    (ha : ¬ argCause i s) : ¬ overflowCause i s := by
  rcases hi with rfl | rfl | rfl <;> simp only [argCause, overflowCause] at ha ⊢ <;> omega

/-- Settles O48. -/
theorem errorsFollowThePriority : Obligations.ErrorsFollowThePriority := by
  intro i s t hw h
  have hfirst := exec_reportsFirst hw h
  refine ⟨hfirst.arg_iff.2, fun ha hf => hfirst.framing_iff.2 ⟨ha, hf⟩,
    fun ha hf ho => hfirst.overflow_iff.2 ⟨ha, hf, ho⟩, fun ha hf ho => hfirst.success_iff.2 ⟨ha, hf, ho⟩,
    fun hcap hout hi herr => ?_⟩
  obtain ⟨ha, -, ho⟩ := hfirst.overflow_iff.1 herr
  exact not_overflowCause_of_equal_caps hcap hout hi ha ho

end Sys2Proof.Machine
end

section
/-! PROOFS. Reset (`70_reset_and_hazards.md` R280), the host actions that stop the machine
(`93_implementation_defined.md` U15), and the forgotten slave address (`70_reset_and_hazards.md` R287). -/

namespace Sys2Proof.Machine

variable {s t : State}

/-- Settles O9. -/
theorem resetClearsResultsAndLengths : Obligations.ResetClearsResultsAndLengths :=
  ⟨by decide, fun s rest hp => ⟨(s.setPending rest).resetEvent, step_cons hp, by simp⟩⟩

/-! ## Which host actions stop the machine -/

/-- A host action that leaves a state names only bytes the block has. -/
theorem HostLeaves.wf {a : HostAction} (h : HostLeaves s a t) : a.wf s.params := by
  cases h with
  | writeIn hi | ignoreOut hi | readByte hi => exact hi
  | _ => trivial

theorem hostWriteReg_next (r : Reg) (v : W16) (s : State) : ∃ t, hostWriteReg r v s = .next t := by
  cases r with
  | cmd => exact issue_next v s
  | _ => exact ⟨_, rfl⟩

theorem hostWriteByte_next {b : Buffer} {i : Nat} (hi : i < s.params.cap b) (v : Byte) :
    ∃ t, hostWriteByte b i v s = .next t := by
  cases b with
  | inBuf => exact ⟨_, hostWriteByte_in s hi v⟩
  | outBuf => exact ⟨_, hostWriteByte_out s hi v⟩

/-- A host action answers a next state exactly where it names only bytes the block has. -/
theorem hostAct_next_iff (a : HostAction) (s : State) : (∃ t, hostAct a s = .next t) ↔ a.wf s.params := by
  refine ⟨fun ⟨_, h⟩ => (hostAct_leaves h).wf, fun ha => ?_⟩
  cases a with
  | writeReg r v => exact hostWriteReg_next r v s
  | writeByte b i v => exact hostWriteByte_next ha v
  | readByte b i => exact ⟨_, hostReadByte_inside ha⟩
  | readReg | skipIfErr | reset => exact ⟨_, rfl⟩

/-- The host actions that name a byte the block does not have. -/
theorem hostAction_not_wf_iff (p : Params) (a : HostAction) :
    ¬ a.wf p ↔ ∃ b i, p.cap b ≤ i ∧ ((∃ v, a = .writeByte b i v) ∨ a = .readByte b i) := by
  constructor
  · intro ha
    cases a with
    | writeByte b i v => exact ⟨b, i, Nat.not_lt.1 ha, .inl ⟨v, rfl⟩⟩
    | readByte b i => exact ⟨b, i, Nat.not_lt.1 ha, .inr rfl⟩
    | writeReg | readReg | skipIfErr | reset => exact absurd trivial ha
  · rintro ⟨b, i, hi, ⟨v, rfl⟩ | rfl⟩ <;> exact Nat.not_lt.2 hi

/-- A step answers no next state exactly where the next host action names a byte the block does not have. -/
theorem step_stops_iff (s : State) :
    (¬ ∃ t, step s = .next t) ↔ ∃ a rest, s.pending = a :: rest ∧ ¬ a.wf s.params := by
  cases hp : s.pending with
  | nil => simp [step_idle hp]
  | cons a rest => simp [step_cons hp, hostAct_next_iff]

/-- Settles O8. -/
theorem onlyAbsentBufferBytesStopTheMachine : Obligations.OnlyAbsentBufferBytesStopTheMachine := by
  intro s
  rw [step_stops_iff]
  constructor
  · rintro ⟨a, rest, hp, ha⟩
    obtain ⟨b, i, hi, ⟨v, rfl⟩ | rfl⟩ := (hostAction_not_wf_iff s.params a).1 ha
    · exact ⟨b, i, rest, hi, .inl ⟨v, hp⟩⟩
    · exact ⟨b, i, rest, hi, .inr hp⟩
  · rintro ⟨b, i, rest, hi, ⟨v, hp⟩ | hp⟩ <;> exact ⟨_, rest, hp, Nat.not_lt.2 hi⟩

/-! ## The forgotten slave address -/

/-- Layout `P2` (`30_encoding.md` R69) at a data address an encoder would accept as a slave address: its high
byte is 0. -/
theorem pduTwoWords_of_low_address (fc : Byte) {address : W16} (field : W16) (h : address.toNat ≤ 247) :
    pduTwoWords fc address field = [fc, 0x00#8, BitVec.ofNat 8 address.toNat,
      BitVec.ofNat 8 (field.toNat / 256), BitVec.ofNat 8 (field.toNat % 256)] := by
  rw [pduTwoWords, be16_eq, be16_eq, Nat.div_eq_of_lt (by omega), Nat.mod_eq_of_lt (by omega)]
  rfl

/-- Settles O55: `PDUENC.3` and `XFER` keep `A[0]`, so `ENCF.RTU` finds the data address there. -/
theorem forgottenSlaveAddress : Obligations.ForgottenSlaveAddress := by
  intro s hw hcap
  obtain ⟨t, ht, hd⟩ : ∃ t, exec .pduenc3 s = .next t ∧ s.Delivers t { out := pduTwoWords 0x03#8 s.a0 s.a1 } :=
    ⟨_, rfl, State.complete_short_pdu_delivers hw (by simp)⟩
  have hparams : t.params = s.params := hd.keeps.params
  have ha0 : t.a0 = s.a0 := hd.keeps.a0
  have hlen : t.outLen.toNat = 5 := hd.outLen
  have hin : t.outLen.toNat ≤ t.params.inCap := by rw [hlen, hparams]; exact le_trans (by decide) hw.1.1
  have hopnd : t.transfer.opnd = pduTwoWords 0x03#8 s.a0 s.a1 :=
    t.transfer_opnd.trans (congrArg ResultRecord.out hd.result)
  refine ⟨t, t.transfer, _, ht, exec_xfer_fits hin, rfl, fun ha => ?_, fun ha => ?_⟩
  · have hframe := encodeFrame_delivers (s := t.transfer) (enc := encRtu) (checksum := crc16) (hparams ▸ hw) hin
      (ha0 ▸ ha) (by rw [encRtu_length, hopnd, t.transfer_params, hparams]; exact hcap)
    refine ⟨congrArg ResultRecord.status hframe.result, (congrArg ResultRecord.out hframe.result).trans ?_⟩
    rw [hopnd, pduTwoWords_of_low_address _ _ ha, lo8_ofNat_toNat, t.transfer_a0, ha0]
  · have harg := encodeFrame_endsIn_arg (s := t.transfer) (enc := encRtu) (checksum := crc16) (.inr (ha0 ▸ ha))
    exact ⟨harg.status, harg.outLen⟩

end Sys2Proof.Machine
end
